-- ==== Sys2Proof/Word.lean ====
section
/-! DEFINITION. The plain value types of the block (spec/00_scope.md R7, R9): bit 0 is the least significant bit of
every value. A channel code is a 16-bit pattern that the block never interprets. -/

namespace Sys2Proof

/-- One 16-bit channel code (R7 `CODE_WIDTH`). -/
abbrev Code := BitVec 16

/-- The 16-bit payload of a bus write (R7 `WRITE_DATA_WIDTH`, R60). -/
abbrev Payload := BitVec 16

/-- One 32-bit word of the read path (R7 `READ_WORD_WIDTH`, R67). -/
abbrev Word := BitVec 32

/-- The 8-bit `register_id` slot of a bus address (R7 `REGISTER_ID_SLOT`, R60). -/
abbrev RegisterId := BitVec 8

/-- One byte of a packed transaction word (R72). -/
abbrev Byte := BitVec 8

/-- Eight 16-bit codes, one for each channel 0..7 (R7 `CHANNELS`): the sample bank (R27) and the serializer's
inputs `adc_code[0..7]` (R34) have this form. -/
structure Codes where
  ch0 : Code
  ch1 : Code
  ch2 : Code
  ch3 : Code
  ch4 : Code
  ch5 : Code
  ch6 : Code
  ch7 : Code
deriving DecidableEq, Repr, Inhabited

/-- All eight codes 0. -/
def Codes.zero : Codes := ⟨0, 0, 0, 0, 0, 0, 0, 0⟩

end Sys2Proof
end

