-- ==== Sys2Proof/Config.lean ====
section
/-! DEFINITION. What the source fixes (spec/00_scope.md R7), the parameters an implementation fixes (R8), and the free
values: opaque constants, so that nothing can be proved about which value they have. -/

namespace Sys2Proof

/-- `MIN_PERIOD_NS` (R7). -/
def minPeriodNs : Nat := 824

/-- `TIMEOUT_QUANTUM_NS` (R7). -/
def timeoutQuantumNs : Nat := 8

/-- `MAX_SAMPLE_COUNT` (R7). -/
def maxSampleCount : Nat := 1024

/-- `WORDS_PER_SAMPLE` (R7). -/
def wordsPerSample : Nat := 4

/-- `CHANNELS` (R7). -/
def channelCount : Nat := 8

/-- The outcomes of the register address decoder (R62). -/
inductive RegTarget where
  | trigger
  | conversionTimeout
  | sampleCount
  | reserved
deriving DecidableEq, Repr, Inhabited

/-- `ADDR_MAP` (R8): the register that each value of the decoded 3-bit field selects. -/
structure AddrMap where
  id0 : RegTarget
  id1 : RegTarget
  id2 : RegTarget
  id3 : RegTarget
  id4 : RegTarget
  id5 : RegTarget
  id6 : RegTarget
  id7 : RegTarget
deriving DecidableEq, Repr, Inhabited

/-- The map R8 and R62 give: 0 Trigger, 1 ConversionTimeout, 2 SampleCount, 3..7 reserved (90_conflicts.md C1). -/
def AddrMap.interfaceListing : AddrMap :=
  ⟨.trigger, .conversionTimeout, .sampleCount, .reserved, .reserved, .reserved, .reserved, .reserved⟩

/-- `PAIR_ORDER` (R8, R44): which channel of a pair stands in bits [31:16] of a word. -/
inductive PairOrder where
  | evenHigh
  | evenLow
deriving DecidableEq, Repr, Inhabited

/-- `WAIT_OFFSET` (R8): `zero` decrements and then tests (R110), `one` tests and then decrements (R111). -/
inductive WaitOffset where
  | zero
  | one
deriving DecidableEq, Repr, Inhabited

/-- The number of extra ConversionWait cycles (R8). -/
def WaitOffset.cycles : WaitOffset → Nat
  | .zero => 0
  | .one => 1

/-- The implementation parameters of R8. They stand in `State.config`, which no step changes, so that a statement over
every state holds for every implementation. FIFO_DEPTH is positive (R8), and a `Config` carries the proof of it. -/
structure Config where
  deviceChannel : Nat
  addrMap : AddrMap
  waitOffset : WaitOffset
  pairOrder : PairOrder
  fifoDepth : Nat
  fifoDepth_pos : 0 < fifoDepth
deriving DecidableEq, Repr

/-- DESIGN CHOICE, unsafe (log 4). The parameters `State.reset` carries: the conventions of spec/95_test_vectors.md
(channel 0x20, WAIT_OFFSET 0, EvenHigh) and a FIFO that holds the largest burst. R8 leaves three of them OPEN. -/
def Config.testVectors : Config :=
  { deviceChannel := 0x20
    addrMap := AddrMap.interfaceListing
    waitOffset := .zero
    pairOrder := .evenHigh
    fifoDepth := 4096
    fifoDepth_pos := by decide }

/-- Free value (log 7): `adc_done` in a cycle for which `State.env` lists no draw of the ADC (R34, U15, U16). -/
opaque Config.freeAdcDone : Nat → Bool

/-- Free value (log 7): `adc_code[0..7]` in a cycle for which `State.env` lists no draw of the ADC (R34, U17). -/
opaque Config.freeAdcCode : Nat → Codes

/-- Free value (log 6): `sc` after the reset cycle with this number (R24, R180, U9). -/
opaque Config.freeSc : Nat → BitVec 16

/-- Free value (log 6): `mux` after the reset cycle with this number (R25, R180, U9). -/
opaque Config.freeMux : Nat → BitVec 2

/-- Free value (log 6): `tc` after the reset cycle with this number (R26, R180, U9). -/
opaque Config.freeTc : Nat → BitVec 16

/-- Free value (log 6): `bank` after the reset cycle with this number (R27, R180, U9). -/
opaque Config.freeBank : Nat → Codes

/-- Free value (log 6): the bits of the unwritten ConversionTimeout after that reset cycle (R21, R180, U10). -/
opaque Config.freeConversionTimeout : Nat → BitVec 16

/-- Free value (log 6): the bits of the unwritten SampleCount after that reset cycle (R22, R180, U10). -/
opaque Config.freeSampleCount : Nat → BitVec 16

end Sys2Proof
end

