-- ==== Sys2Proof/Syntax.lean ====
section
/-! DEFINITION. The bus transactions of the block (spec/30_encoding.md R69, R72): one constructor for each row of
spec/opcode_table.json. The block has no other instructions (R1). -/

namespace Sys2Proof

/-- A transaction of this block. A reserved row that covers several register ids carries the id that was written. -/
inductive Instr where
  /-- WR_TRIGGER, `register_id` 0x00 (R81). -/
  | wrTrigger (data : Payload)
  /-- WR_TIMEOUT, `register_id` 0x01 (R82). -/
  | wrTimeout (data : Payload)
  /-- WR_COUNT, `register_id` 0x02 (R83). -/
  | wrCount (data : Payload)
  /-- WR_RESERVED, `register_id` 0x03 (R84). -/
  | wrReserved03 (data : Payload)
  /-- WR_RESERVED, `register_id` 0x04-0x07 (R84). -/
  | wrReserved04 (id : RegisterId) (data : Payload)
  /-- WR_RESERVED, `register_id` 0x08-0x0F (R84). -/
  | wrReserved08 (id : RegisterId) (data : Payload)
  /-- WR_RESERVED, `register_id` 0x10-0x1F (R84). -/
  | wrReserved10 (id : RegisterId) (data : Payload)
  /-- WR_RESERVED, `register_id` 0x20-0x3F (R84). -/
  | wrReserved20 (id : RegisterId) (data : Payload)
  /-- WR_RESERVED, `register_id` 0x40-0x7F (R84). -/
  | wrReserved40 (id : RegisterId) (data : Payload)
  /-- WR_RESERVED, `register_id` 0x80-0xFF (R84). -/
  | wrReserved80 (id : RegisterId) (data : Payload)
  /-- RD_WORD, the read path: no address, no payload (R67, R85). -/
  | rdWord
deriving DecidableEq, Repr

end Sys2Proof
end

