-- ==== Sys2Proof/WellFormed.lean ====
section
/-! DEFINITION. When a transaction is well formed (spec/30_encoding.md R72): the register id that a reserved row
carries lies among the ids the row covers. Every payload is well formed: which payload a trigger may have is a check
made when it lands (R65, R81), not a matter of form. -/

namespace Sys2Proof

/-- The id matches a row of the opcode table: `id & mask = match` (R72), on the id's eight bits. -/
def idInRow (mask pattern id : RegisterId) : Bool :=
  id &&& mask == pattern

/-- The register id of a reserved row lies in that row. -/
def Instr.wellFormed : Instr → Bool
  | .wrTrigger _ => true
  | .wrTimeout _ => true
  | .wrCount _ => true
  | .wrReserved03 _ => true
  | .wrReserved04 id _ => idInRow 0xFC 0x04 id
  | .wrReserved08 id _ => idInRow 0xF8 0x08 id
  | .wrReserved10 id _ => idInRow 0xF0 0x10 id
  | .wrReserved20 id _ => idInRow 0xE0 0x20 id
  | .wrReserved40 id _ => idInRow 0xC0 0x40 id
  | .wrReserved80 id _ => idInRow 0x80 0x80 id
  | .rdWord => true

end Sys2Proof
end

