-- ==== Sys2Proof/Decode.lean ====
section
/-! DEFINITION. The register address decoder (spec/30_encoding.md R62), the decoder of the packed transaction word
(R72), and after them the encoder. -/

namespace Sys2Proof

/-- The register that the decoded field `register_id[2:0]` selects under an address map (R62). -/
def AddrMap.lookup (m : AddrMap) (field : BitVec 3) : RegTarget :=
  match field.toNat with
  | 0 => m.id0
  | 1 => m.id1
  | 2 => m.id2
  | 3 => m.id3
  | 4 => m.id4
  | 5 => m.id5
  | 6 => m.id6
  | _ => m.id7

/-- R62: the outcome of the register address decoder. Bits [7:3] of the id must be 0, else it is reserved. -/
def regTarget (m : AddrMap) (id : RegisterId) : RegTarget :=
  if id.extractLsb' 3 5 ≠ 0 then .reserved else m.lookup (id.extractLsb' 0 3)

/-- The reserved row of the opcode table that an id lies in (R72). Only an id from 3 up lies in one: an id below 3
that a map other than R8's reserves is given row 0x03, whose meaning is every reserved row's (log 12). -/
def reservedRow (id : RegisterId) (data : Payload) : Instr :=
  if 0x80 ≤ id.toNat then .wrReserved80 id data
  else if 0x40 ≤ id.toNat then .wrReserved40 id data
  else if 0x20 ≤ id.toNat then .wrReserved20 id data
  else if 0x10 ≤ id.toNat then .wrReserved10 id data
  else if 0x08 ≤ id.toNat then .wrReserved08 id data
  else if 0x04 ≤ id.toNat then .wrReserved04 id data
  else .wrReserved03 data

/-- R62, R69: the transaction that a write of `data` to `id` on this block's channel is. Total. -/
def decodeWrite (m : AddrMap) (id : RegisterId) (data : Payload) : Instr :=
  match regTarget m id with
  | .trigger => .wrTrigger data
  | .conversionTimeout => .wrTimeout data
  | .sampleCount => .wrCount data
  | .reserved => reservedRow id data

/-- Why a string of bytes is no transaction. -/
inductive DecodeError where
  /-- R68: a write is three bytes and a read none; there is no other length. -/
  | badLength (bytes : Nat)
deriving DecidableEq, Repr

/-- The decoder of a packed transaction word (R72), lowest byte first: a write is `data[7:0]`, `data[15:8]`,
`register_id`, and a read has no bits. The ids are R8's. -/
def decode : List Byte → Except DecodeError Instr
  | [] => .ok .rdWord
  | [dataLow, dataHigh, id] => .ok (decodeWrite AddrMap.interfaceListing id (dataHigh ++ dataLow))
  | bytes => .error (.badLength bytes.length)

/-- The low `n` bytes of a number, lowest first. -/
def bytesOf : Nat → Nat → List Byte
  | 0, _ => []
  | n + 1, w => BitVec.ofNat 8 w :: bytesOf n (w / 256)

/-- The instruction the decoder reads from the table's bits `w` (R72). The write rows have 24 bits. A row with fewer
is the read's, whose match and mask are 0 (R67, R72; log 11). -/
def decodeTableWord (nbits w : Nat) : Option Instr :=
  if 2 ^ nbits ≤ w then none
  else if nbits < 24 then
    if w = 0 then (decode []).toOption else none
  else (decode (bytesOf ((nbits + 7) / 8) w)).toOption

/-- The bytes of a write, lowest first (R72): the packing `{register_id, data}`. -/
def writeBytes (id : RegisterId) (data : Payload) : List Byte :=
  [data.extractLsb' 0 8, data.extractLsb' 8 8, id]

/-- The encoder: the bytes of a transaction, lowest first (R72). -/
def encode : Instr → List Byte
  | .wrTrigger data => writeBytes 0x00 data
  | .wrTimeout data => writeBytes 0x01 data
  | .wrCount data => writeBytes 0x02 data
  | .wrReserved03 data => writeBytes 0x03 data
  | .wrReserved04 id data => writeBytes id data
  | .wrReserved08 id data => writeBytes id data
  | .wrReserved10 id data => writeBytes id data
  | .wrReserved20 id data => writeBytes id data
  | .wrReserved40 id data => writeBytes id data
  | .wrReserved80 id data => writeBytes id data
  | .rdWord => []

/-- One row of spec/opcode_table.json: its mnemonic, and mask and match over the 24-bit transaction word (R72). -/
structure OpcodeRow where
  mnemonic : String
  mask : BitVec 24
  pattern : BitVec 24
deriving DecidableEq, Repr

/-- The write rows of spec/opcode_table.json, in its order. -/
def writeRows : List OpcodeRow :=
  [ ⟨"WR_TRIGGER", 0xFF0000, 0x000000⟩, ⟨"WR_TIMEOUT", 0xFF0000, 0x010000⟩,
    ⟨"WR_COUNT", 0xFF0000, 0x020000⟩, ⟨"WR_RESERVED", 0xFF0000, 0x030000⟩,
    ⟨"WR_RESERVED", 0xFC0000, 0x040000⟩, ⟨"WR_RESERVED", 0xF80000, 0x080000⟩,
    ⟨"WR_RESERVED", 0xF00000, 0x100000⟩, ⟨"WR_RESERVED", 0xE00000, 0x200000⟩,
    ⟨"WR_RESERVED", 0xC00000, 0x400000⟩, ⟨"WR_RESERVED", 0x800000, 0x800000⟩ ]

/-- The place in `writeRows` of a transaction's row; the read has no row there. -/
def Instr.rowIndex : Instr → Option Nat
  | .wrTrigger _ => some 0
  | .wrTimeout _ => some 1
  | .wrCount _ => some 2
  | .wrReserved03 _ => some 3
  | .wrReserved04 _ _ => some 4
  | .wrReserved08 _ _ => some 5
  | .wrReserved10 _ _ => some 6
  | .wrReserved20 _ _ => some 7
  | .wrReserved40 _ _ => some 8
  | .wrReserved80 _ _ => some 9
  | .rdWord => none

end Sys2Proof
end

