-- ==== Sys2Proof/Machine/State.lean ====
section
/-! DEFINITION. Everything the spec gives the machine (spec/10_state.md), the input ports of the present cycle and the
coming inputs as plain data, the marks of the spec's own model (R29-R31), and the state after reset. -/

namespace Sys2Proof.Machine

/-- R20: the five values of the FSM state register. The source gives no binary encoding. -/
inductive FsmState where
  | idle
  | startAcquire
  | acquiring
  | reading
  | conversionWait
deriving DecidableEq, Repr, Inhabited

/-- The model faults (R162). They are recorded in `State.faults` by the FSM's push and the machine goes on (R31, R112),
so no step answers `.fault`. A claim about the hardware takes "no fault recorded" as a premise (R31). -/
inductive Fault where
  /-- Raised by a Reading cycle that pushes onto a full FIFO (R112): the word is not pushed. Records the cycle, `sc`
  and `mux` (R162). Safe under the premise that no fault is recorded, unsafe without it (log 1). -/
  | fifoOverflow (cycle : Nat) (sampleIndex : BitVec 16) (wordIndex : BitVec 2)
deriving DecidableEq, Repr

/-- The model refusals (R163). Every one but `notModelled` is recorded in `State.refused` and `State.refusals` and the
machine goes on (R10, R31), so no step answers `.refused`. Each is safe under the premise that the state is not
refused, and unsafe without it (log 1). -/
inductive Refusal where
  /-- An instruction without a meaning yet. Raised only in `exec`'s refused arms; there is none. Safe. -/
  | notModelled (mnemonic : String)
  /-- A write lands in a cycle with `rst = 1` (R87). Raised by every write. -/
  | writeDuringReset
  /-- Two writes to the block land in one cycle (R86). Raised by every write. -/
  | writeCollision
  /-- The `register_id` decodes to Reserved (R84). Raised by WR_RESERVED. -/
  | reservedRegister
  /-- A configuration write lands while `state != Idle` (R80). Raised by WR_TIMEOUT and WR_COUNT. -/
  | configWhileBusy
  /-- The trigger's payload is not 0x0001 (R65, R81). Raised by WR_TRIGGER. -/
  | triggerPayload
  /-- A trigger lands while `state != Idle` (R81). Raised by WR_TRIGGER. -/
  | triggerWhileBusy
  /-- A trigger lands while a configuration register is unwritten (R81). Raised by WR_TRIGGER. -/
  | configUnwritten
  /-- A trigger lands while `N = 0` or `N > 1024` (R81, R174). Raised by WR_TRIGGER. -/
  | sampleCountRange
  /-- A second host agent writes to the block (R130, R163). Raised by the cycle in which it does. -/
  | secondHost
deriving DecidableEq, Repr

/-- R60: a bus write, an address (`device_channel` from bit 8 up, `register_id` in bits [7:0]) and a payload. -/
structure BusWrite where
  addr : Nat
  data : Payload
deriving DecidableEq, Repr, Inhabited

/-- R32: the input ports in the present cycle. `writes` stands for `wr_stb`, `wr_addr` and `wr_data`: the sequencer's
writes that land in this cycle, those of other channels among them (R61). -/
structure Ports where
  rst : Bool
  writes : List BusWrite
  secondHost : Bool
  adcDone : Bool
  adcCode : Codes
deriving DecidableEq, Repr, Inhabited

/-- R34: one cycle's draw of the ADC agent. -/
structure AdcPins where
  done : Bool
  code : Codes
deriving DecidableEq, Repr, Inhabited

/-- What the environment does in one coming cycle: the reads the host issues before its clock edge (R85), the reset
line, the writes that land, and the ADC's draw (`none` leaves it a free value). DESIGN CHOICE (log 8). -/
structure EnvCycle where
  reads : Nat
  rst : Bool
  writes : List BusWrite
  secondHost : Bool
  adc : Option AdcPins
deriving DecidableEq, Repr, Inhabited

/-- A coming cycle in which nobody does anything; the ADC's pins are free. -/
def EnvCycle.quiet : EnvCycle :=
  { reads := 0, rst := false, writes := [], secondHost := false, adc := none }

/-- The host-side state the spec names: the logical clock `now` (R131), the pending sample count (R139) and the
RawSampleBuffer, in arrival order (R130, R139). `transferLeft` is the model's own (log 23): the words that the
`transfer` in progress has still to read, 0 when none is. -/
structure HostSide where
  now : Nat
  pendingSamples : Nat
  transferLeft : Nat
  buffer : List Word
deriving DecidableEq, Repr, Inhabited

/-- The whole state. The block has no memory, no program counter and no flags (R35, R40). -/
structure State where
  /-- R20. -/
  state : FsmState
  /-- R21, `T`. -/
  conversionTimeout : BitVec 16
  /-- R22, `N`. -/
  sampleCount : BitVec 16
  /-- R24. -/
  sc : BitVec 16
  /-- R25. -/
  mux : BitVec 2
  /-- R26. -/
  tc : BitVec 16
  /-- R27. -/
  bank : Codes
  /-- R30, oldest word first. -/
  fifo : List Word
  /-- R29, `wr_T`. -/
  wrT : Bool
  /-- R29, `wr_N`. -/
  wrN : Bool
  /-- R31. -/
  refused : Bool
  /-- The names of the refusals raised, oldest first. The model's own record (log 1): R31 keeps the boolean only. -/
  refusals : List Refusal
  /-- R31, oldest first. -/
  faults : List Fault
  /-- R11: the number of the present cycle. -/
  cycle : Nat
  /-- R32: the input ports in the present cycle. -/
  ports : Ports
  /-- The environment in the cycles after the present one (log 8). -/
  env : List EnvCycle
  /-- The host's reads that have returned no word yet (R85, log 9). -/
  reads : Nat
  /-- R131, R139. -/
  host : HostSide
  /-- R8. -/
  config : Config
deriving DecidableEq, Repr

/-- R36, R182: the state in cycle 0 under the parameters `c`. DESIGN CHOICE, unsafe (log 5): the registers for which
R36 states no value hold 0. -/
def State.resetWith (c : Config) : State :=
  { state := .idle
    conversionTimeout := 0
    sampleCount := 0
    sc := 0
    mux := 0
    tc := 0
    bank := Codes.zero
    fifo := []
    wrT := false
    wrN := false
    refused := false
    refusals := []
    faults := []
    cycle := 0
    ports := { rst := false, writes := [], secondHost := false, adcDone := false, adcCode := Codes.zero }
    env := []
    reads := 0
    host := { now := 0, pendingSamples := 0, transferLeft := 0, buffer := [] }
    config := c }

/-- R36, R182: the machine right after reset, with the parameters of log 4. -/
def State.reset : State :=
  State.resetWith Config.testVectors

end Sys2Proof.Machine
end

