-- ==== Sys2Proof/Machine/Operands.lean ====
section
/-! DEFINITION. The operand forms: the fields of a bus address (spec/30_encoding.md R60, R61), a write read as a
transaction of this block, and the layout of an output word (spec/20_memory.md R44). -/

namespace Sys2Proof.Machine

/-- R60: the bits of a bus address from 8 up. -/
def deviceChannel (addr : Nat) : Nat :=
  addr / 256

/-- R60: bits [7:0] of a bus address. -/
def registerId (addr : Nat) : RegisterId :=
  BitVec.ofNat 8 addr

/-- R60: the bus address `(device_channel << 8) | register_id`. -/
def busAddress (channel : Nat) (id : RegisterId) : Nat :=
  channel * 256 + id.toNat

/-- R61, R62: the transaction of this block that a bus write is; `none` for another device's channel. -/
def decodeBus (c : Config) (w : BusWrite) : Option Instr :=
  if deviceChannel w.addr = c.deviceChannel then some (decodeWrite c.addrMap (registerId w.addr) w.data) else none

/-- R27: the code of channel `c`. -/
def channelCode (codes : Codes) (c : Fin 8) : Code :=
  match c.val with
  | 0 => codes.ch0
  | 1 => codes.ch1
  | 2 => codes.ch2
  | 3 => codes.ch3
  | 4 => codes.ch4
  | 5 => codes.ch5
  | 6 => codes.ch6
  | _ => codes.ch7

/-- R44: the even channel `2k` of word `k`. -/
def evenChannel (k : BitVec 2) : Fin 8 :=
  ⟨2 * k.toNat, by have := k.isLt; omega⟩

/-- R44: the odd channel `2k + 1` of word `k`. -/
def oddChannel (k : BitVec 2) : Fin 8 :=
  ⟨2 * k.toNat + 1, by have := k.isLt; omega⟩

/-- R44: two codes packed in one word, the even channel's in bits [31:16] under `EvenHigh`, in [15:0] under `EvenLow`. -/
def packPair (order : PairOrder) (even odd : Code) : Word :=
  match order with
  | .evenHigh => even ++ odd
  | .evenLow => odd ++ even

/-- R44: `word(k)`, the word with multiplex index `k` of a bank. -/
def muxWord (order : PairOrder) (bank : Codes) (k : BitVec 2) : Word :=
  packPair order (channelCode bank (evenChannel k)) (channelCode bank (oddChannel k))

/-- The input ports in cycle `t`, as the environment drives them (R32). Pins of the ADC that no draw fixes are free
values (R34, log 7). -/
def EnvCycle.toPorts (e : EnvCycle) (t : Nat) : Ports :=
  { rst := e.rst
    writes := e.writes
    secondHost := e.secondHost
    adcDone := (e.adc.map AdcPins.done).getD (Config.freeAdcDone t)
    adcCode := (e.adc.map AdcPins.code).getD (Config.freeAdcCode t) }

/-- What the environment does in the next cycle: the head of its list, or nothing when it lists no more (log 8). -/
def nextEnv (s : State) : EnvCycle :=
  s.env.headD EnvCycle.quiet

end Sys2Proof.Machine
end

