-- ==== Sys2Proof/Machine/Flags.lean ====
section
/-! DEFINITION. The block has no status or condition flags (spec/10_state.md R35). What stands here are its two
outputs (R32, R33) and the conditions its FSM and its admission checks test. -/

namespace Sys2Proof.Machine

/-- R33, D30: the ADC start pulse, 1 exactly in StartAcquire, whatever the reset line is (log 15). -/
def adcStart (s : State) : Bool :=
  s.state == .startAcquire

/-- R32: `rd_data`, the FIFO head. -/
def rdData (s : State) : Option Word :=
  s.fifo.head?

/-- R108: the present Reading cycle emits word 3. -/
def lastWord (s : State) : Bool :=
  s.mux == 3

/-- R108: `sc = N - 1`, computed on naturals. -/
def lastSample (s : State) : Bool :=
  s.sc.toNat == s.sampleCount.toNat - 1

/-- R81: `1 <= N <= MAX_SAMPLE_COUNT`. -/
def sampleCountInRange (s : State) : Bool :=
  decide (1 ≤ s.sampleCount.toNat) && decide (s.sampleCount.toNat ≤ maxSampleCount)

/-- R112: the FIFO holds fewer than `FIFO_DEPTH` words. -/
def fifoHasRoom (s : State) : Bool :=
  decide (s.fifo.length < s.config.fifoDepth)

/-- R86: besides the write being executed, another write to this block lands in the present cycle. The executed write
has been taken out of the ports (`fetchWrite`). -/
def anotherWriteLands (s : State) : Bool :=
  s.ports.writes.any (fun w => (decodeBus s.config w).isSome) || s.ports.secondHost

/-- R85: the host has an unanswered read and the FIFO a word for it. -/
def readReady (s : State) : Bool :=
  decide (s.reads ≠ 0) && !s.fifo.isEmpty

end Sys2Proof.Machine
end

