-- ==== Sys2Proof/Machine/Ops.lean ====
section
/-! DEFINITION. The named operations over the state: the marks (spec/60_exceptions.md R162, R163), the FIFO (R30, R85,
R112), the configuration registers (R82, R83), the device reset (R180), the end of a cycle (R10, R11), and the checks
of a write (R80, R81). The block takes no exception (R160, R165), so there is no entry and no return; the device reset
is the nearest thing (R165). -/

namespace Sys2Proof.Machine

/-- `raise Refused(r)` (R10, R31): the mark is set and never cleared. -/
def raiseRefused (r : Refusal) (s : State) : State :=
  { s with refused := true, refusals := s.refusals ++ [r] }

/-- `raise Fault(f)` (R10, R31): the fault is recorded and never removed. -/
def raiseFault (f : Fault) (s : State) : State :=
  { s with faults := s.faults ++ [f] }

/-- `push(w)` (R10, R107, R112): onto a full FIFO it records the fault and does not push. -/
def pushWord (w : Word) (s : State) : State :=
  if fifoHasRoom s then { s with fifo := s.fifo ++ [w] } else raiseFault (.fifoOverflow s.cycle s.sc s.mux) s

/-- R82: `ConversionTimeout <- data; wr_T <- true`. -/
def storeTimeout (data : Payload) (s : State) : State :=
  { s with conversionTimeout := data, wrT := true }

/-- R83: `SampleCount <- data; wr_N <- true`. -/
def storeCount (data : Payload) (s : State) : State :=
  { s with sampleCount := data, wrN := true }

/-- R180: what a cycle with `rst = 1` does to the block. The marks stay (R31). What becomes unspecified is a free value
(log 6). -/
def deviceReset (s : State) : State :=
  { s with
    state := .idle
    conversionTimeout := Config.freeConversionTimeout s.cycle
    sampleCount := Config.freeSampleCount s.cycle
    sc := Config.freeSc s.cycle
    mux := Config.freeMux s.cycle
    tc := Config.freeTc s.cycle
    bank := Config.freeBank s.cycle
    fifo := []
    wrT := false
    wrN := false }

/-- The clock edge ends the present cycle (R11): the next cycle's inputs come to the ports, and the host's reads of
that cycle are issued. -/
def endCycle (s : State) : State :=
  { s with
    cycle := s.cycle + 1
    ports := (nextEnv s).toPorts (s.cycle + 1)
    reads := s.reads + (nextEnv s).reads
    env := s.env.tail }

/-- R130, R163: a second host's write in the present cycle sets the mark and does nothing else. In a reset cycle the
reset check comes first (R164). -/
def markSecondHost (s : State) : State :=
  if s.ports.secondHost then raiseRefused (if s.ports.rst then .writeDuringReset else .secondHost) s else s

/-- R80: the checks that come before the register id is looked at, in their order. -/
def commonRefusal (s : State) : Option Refusal :=
  if s.ports.rst then some .writeDuringReset
  else if anotherWriteLands s then some .writeCollision
  else none

/-- R80, R84: the refusal of a write to a reserved register; there is always one. -/
def reservedRefusal (s : State) : Refusal :=
  (commonRefusal s).getD .reservedRegister

/-- R80: the refusal of a configuration write, if any. -/
def configRefusal (s : State) : Option Refusal :=
  match commonRefusal s with
  | some r => some r
  | none => if s.state = .idle then none else some .configWhileBusy

/-- R80 and then R81: the refusal of a trigger write, if any. -/
def triggerRefusal (data : Payload) (s : State) : Option Refusal :=
  match commonRefusal s with
  | some r => some r
  | none =>
    if data ≠ 0x0001 then some .triggerPayload
    else if s.state ≠ .idle then some .triggerWhileBusy
    else if !(s.wrT && s.wrN) then some .configUnwritten
    else if !sampleCountInRange s then some .sampleCountRange
    else none

end Sys2Proof.Machine
end

