-- ==== Sys2Proof/Machine/Fsm.lean ====
section
/-! DEFINITION. The acquisition FSM, one cycle (spec/41_fsm.md R100-R112): one definition for each state. -/

namespace Sys2Proof.Machine

/-- R101, R102: only the trigger pulse leaves Idle. -/
def fsmIdle (trig : Bool) (s : State) : State :=
  if trig then { s with sc := 0, state := .startAcquire } else s

/-- R103: StartAcquire lasts one cycle. -/
def fsmStartAcquire (s : State) : State :=
  { s with state := .acquiring }

/-- R104, R105: completion captures the codes; without it nothing changes. -/
def fsmAcquiring (s : State) : State :=
  if s.ports.adcDone then { s with bank := s.ports.adcCode, mux := 0, state := .reading } else s

/-- R108: the branch at the last word. -/
def lastWordBranch (s : State) : State :=
  if lastSample s then { s with state := .idle }
  else if s.conversionTimeout = 0 then { s with sc := s.sc + 1, state := .startAcquire }
  else { s with sc := s.sc + 1, tc := s.conversionTimeout, state := .conversionWait }

/-- R106: `mux <- (mux + 1) mod 4`. -/
def advanceMux (s : State) : State :=
  { s with mux := s.mux + 1 }

/-- R106-R109, R112: every Reading cycle pushes `word(mux)` and advances `mux`; the last word branches. The branch
reads `sc`, `N` and `T`, which neither the push nor `mux` changes. -/
def fsmReading (s : State) : State :=
  let pushed := advanceMux (pushWord (muxWord s.config.pairOrder s.bank s.mux) s)
  if lastWord s then lastWordBranch pushed else pushed

/-- R110 for `WAIT_OFFSET = 0`, R111 for `WAIT_OFFSET = 1`. -/
def fsmConversionWait (s : State) : State :=
  match s.config.waitOffset with
  | .zero =>
    if s.tc - 1 = 0 then { s with tc := s.tc - 1, state := .startAcquire } else { s with tc := s.tc - 1 }
  | .one =>
    if s.tc = 0 then { s with state := .startAcquire } else { s with tc := s.tc - 1 }

/-- R100: one FSM step of a cycle with `rst = 0`; `trig` is the pulse of an admitted WR_TRIGGER of the same cycle. -/
def fsmStep (trig : Bool) (s : State) : State :=
  match s.state with
  | .idle => fsmIdle trig s
  | .startAcquire => fsmStartAcquire s
  | .acquiring => fsmAcquiring s
  | .reading => fsmReading s
  | .conversionWait => fsmConversionWait s

end Sys2Proof.Machine
end

