-- ==== Sys2Proof/Machine/Cycle.lean ====
section
/-! DEFINITION. One whole cycle of the block: the reset or the FSM's step (spec/60_exceptions.md R164), and what a
write that lands in the cycle adds at its clock edge (spec/00_scope.md R10). -/

namespace Sys2Proof.Machine

/-- R164: `rst = 1` decides first; otherwise the FSM steps (R100). -/
def clockEdge (trig : Bool) (s : State) : State :=
  if s.ports.rst then deviceReset s else fsmStep trig s

/-- A cycle in which no write of the sequencer takes effect. -/
def quietCycle (s : State) : State :=
  endCycle (clockEdge false (markSecondHost s))

/-- A cycle in which a write is refused: the mark is set, the write does nothing else, and the FSM steps, or the block is
reset (R164). DESIGN CHOICE (log 2): one name is recorded for all the sequencer's writes of the cycle, WriteCollision or
in a reset cycle WriteDuringReset. -/
def refusedCycle (r : Refusal) (s : State) : State :=
  quietCycle (raiseRefused r s)

/-- A cycle in which a trigger is admitted: Idle sees the pulse in this cycle (R81, R101). -/
def triggerCycle (s : State) : State :=
  endCycle (clockEdge true (markSecondHost s))

/-- A cycle in which ConversionTimeout is written at the clock edge (R82): the FSM's step reads the old value (R100). -/
def timeoutCycle (data : Payload) (s : State) : State :=
  endCycle (storeTimeout data (clockEdge false (markSecondHost s)))

/-- A cycle in which SampleCount is written at the clock edge (R83): the FSM's step reads the old value (R100). -/
def countCycle (data : Payload) (s : State) : State :=
  endCycle (storeCount data (clockEdge false (markSecondHost s)))

/-- R84: a cycle in which a reserved write lands; it is refused in every state and whatever its payload. -/
def reservedCycle (s : State) : State :=
  refusedCycle (reservedRefusal s) s

end Sys2Proof.Machine
end

