-- ==== Sys2Proof/Machine/Reads.lean ====
section
/-! DEFINITION. The meaning of the read (spec/40_bus_transactions.md R85). -/

namespace Sys2Proof.Machine

/-- R139: the host appends a word it has read. With the last word of a `transfer` the pending sample count is set to 0.
DESIGN CHOICE (log 21): nothing ever empties the buffer; the spec leaves open whether and when it is. -/
def HostSide.receive (w : Word) (h : HostSide) : HostSide :=
  { h with
    buffer := h.buffer ++ [w]
    pendingSamples := if h.transferLeft = 1 then 0 else h.pendingSamples
    transferLeft := h.transferLeft - 1 }

/-- R85: `w <- head(fifo); fifo <- tail(fifo)`, and the word comes to the host (R139, log 21). -/
def popWord (w : Word) (rest : List Word) (s : State) : State :=
  { s with fifo := rest, host := s.host.receive w }

/-- The host's read stays unanswered. -/
def keepRead (s : State) : State :=
  { s with reads := s.reads + 1 }

/-- R85: RD_WORD, taken between two cycles when the FIFO has a word. While it is empty the host has no step: the read
stays unanswered and the block's cycle passes (log 9). -/
def execRdWord (s : State) : Host.Outcome State Fault Refusal :=
  match s.fifo with
  | w :: rest => .next (popWord w rest s)
  | [] => .next (quietCycle (keepRead s))

end Sys2Proof.Machine
end

