-- ==== Sys2Proof/Machine/Writes.lean ====
section
/-! DEFINITION. The meanings of the writes (spec/40_bus_transactions.md R80-R84): each is the whole cycle in which the
write lands, from the ports of the state to the next cycle. -/

namespace Sys2Proof.Machine

/-- R81: WR_TRIGGER. -/
def execWrTrigger (data : Payload) (s : State) : Host.Outcome State Fault Refusal :=
  match triggerRefusal data s with
  | some r => .next (refusedCycle r s)
  | none => .next (triggerCycle s)

/-- R82: WR_TIMEOUT. -/
def execWrTimeout (data : Payload) (s : State) : Host.Outcome State Fault Refusal :=
  match configRefusal s with
  | some r => .next (refusedCycle r s)
  | none => .next (timeoutCycle data s)

/-- R83: WR_COUNT. -/
def execWrCount (data : Payload) (s : State) : Host.Outcome State Fault Refusal :=
  match configRefusal s with
  | some r => .next (refusedCycle r s)
  | none => .next (countCycle data s)

/-- R84: WR_RESERVED, id 0x03. -/
def execWrReserved03 (_data : Payload) (s : State) : Host.Outcome State Fault Refusal :=
  .next (reservedCycle s)

/-- R84: WR_RESERVED, ids 0x04-0x07. -/
def execWrReserved04 (_id : RegisterId) (_data : Payload) (s : State) : Host.Outcome State Fault Refusal :=
  .next (reservedCycle s)

/-- R84: WR_RESERVED, ids 0x08-0x0F. -/
def execWrReserved08 (_id : RegisterId) (_data : Payload) (s : State) : Host.Outcome State Fault Refusal :=
  .next (reservedCycle s)

/-- R84: WR_RESERVED, ids 0x10-0x1F. -/
def execWrReserved10 (_id : RegisterId) (_data : Payload) (s : State) : Host.Outcome State Fault Refusal :=
  .next (reservedCycle s)

/-- R84: WR_RESERVED, ids 0x20-0x3F. -/
def execWrReserved20 (_id : RegisterId) (_data : Payload) (s : State) : Host.Outcome State Fault Refusal :=
  .next (reservedCycle s)

/-- R84: WR_RESERVED, ids 0x40-0x7F. -/
def execWrReserved40 (_id : RegisterId) (_data : Payload) (s : State) : Host.Outcome State Fault Refusal :=
  .next (reservedCycle s)

/-- R84: WR_RESERVED, ids 0x80-0xFF. -/
def execWrReserved80 (_id : RegisterId) (_data : Payload) (s : State) : Host.Outcome State Fault Refusal :=
  .next (reservedCycle s)

end Sys2Proof.Machine
end

