-- ==== Sys2Proof/Machine/Dispatch.lean ====
section
/-! DEFINITION. One arm for each transaction: the meaning it has. -/

namespace Sys2Proof.Machine

def exec (i : Instr) (s : State) : Host.Outcome State Fault Refusal :=
  match i with
  | .wrTrigger data => Sys2Proof.Machine.execWrTrigger data s
  | .wrTimeout data => Sys2Proof.Machine.execWrTimeout data s
  | .wrCount data => Sys2Proof.Machine.execWrCount data s
  | .wrReserved03 data => Sys2Proof.Machine.execWrReserved03 data s
  | .wrReserved04 id data => Sys2Proof.Machine.execWrReserved04 id data s
  | .wrReserved08 id data => Sys2Proof.Machine.execWrReserved08 id data s
  | .wrReserved10 id data => Sys2Proof.Machine.execWrReserved10 id data s
  | .wrReserved20 id data => Sys2Proof.Machine.execWrReserved20 id data s
  | .wrReserved40 id data => Sys2Proof.Machine.execWrReserved40 id data s
  | .wrReserved80 id data => Sys2Proof.Machine.execWrReserved80 id data s
  | .rdWord => Sys2Proof.Machine.execRdWord s

end Sys2Proof.Machine
end

