-- ==== Sys2Proof/Machine/Fetch.lean ====
section
/-! DEFINITION. Which transaction comes next (spec/30_encoding.md R61, spec/40_bus_transactions.md R85): the block
fetches no instructions (spec/20_memory.md R54); the host's transactions come to it at the ports. -/

namespace Sys2Proof.Machine

/-- The first of a list of writes that is this block's (R61), as a transaction, and the writes after it. -/
def takeWrite (c : Config) : List BusWrite → Option (Instr × List BusWrite)
  | [] => none
  | w :: ws =>
    match decodeBus c w with
    | some i => some (i, ws)
    | none => takeWrite c ws

/-- The write of the present cycle as a transaction, and the state with it taken out of the ports. -/
def fetchWrite (s : State) : Option (Instr × State) :=
  match takeWrite s.config s.ports.writes with
  | some (i, ws) => some (i, { s with ports := { s.ports with writes := ws } })
  | none => none

/-- One of the host's unanswered reads is taken up. -/
def takeRead (s : State) : State :=
  { s with reads := s.reads - 1 }

/-- The bus write whose packed word is `w` (R72), on this block's channel. -/
def writeOfTableWord (c : Config) (w : Nat) : BusWrite :=
  { addr := busAddress c.deviceChannel (BitVec.ofNat 8 (w / 65536)), data := BitVec.ofNat 16 w }

/-- `s` with the write `w` alone on the bus in the present cycle. -/
def placeWriteNow (w : BusWrite) (s : State) : State :=
  { s with reads := 0, ports := { s.ports with writes := [w] } }

/-- `s` with one unanswered read of the host and no write in the present cycle. -/
def placeReadNow (s : State) : State :=
  { s with reads := 1, ports := { s.ports with writes := [] } }

end Sys2Proof.Machine
end

