-- ==== Sys2Proof/Machine/Step.lean ====
section
/-! DEFINITION. One step of the machine: an answerable read of the host between two cycles (spec/40_bus_transactions.md
R85), or one coarse clock cycle (spec/41_fsm.md R100) with the write that lands in it. -/

namespace Sys2Proof.Machine

/-- A read that the FIFO can answer is taken first (R85, D36). Otherwise one cycle passes: with the write that lands in
it, with the host blocked on a read, or with no transaction. -/
def step (s : State) : Host.Outcome State Fault Refusal :=
  if readReady s then exec .rdWord (takeRead s)
  else
    match fetchWrite s with
    | some (i, s') => exec i s'
    | none => if s.reads = 0 then .next (quietCycle s) else exec .rdWord (takeRead s)

/-- `s` with the transaction whose table bits are `w` placed where the next step takes it (log 11): a write alone on
the bus in the present cycle, a read as the host's one unanswered read. -/
def State.withFetchWord (s : State) (nbits w : Nat) : State :=
  if nbits < 24 then placeReadNow s else placeWriteNow (writeOfTableWord s.config w) s

end Sys2Proof.Machine
end

