-- ==== Sys2Proof/Machine/HostProtocol.lean ====
section
/-! DEFINITION. The host sequencer's side of the register bus (spec/42_host_protocol.md R130-R146), as far as the spec
describes it: what its operations issue, and the demultiplexing of the words it has read. They are moves of the host,
no steps of the block: each puts transactions where `step` finds them. -/

namespace Sys2Proof.Machine

/-- Why the host turns a request down before any bus traffic. -/
inductive HostError where
  /-- R133: `sample_count` outside 1..1024, or `period` below the minimum. -/
  | rangeError
  /-- R135: the computed `T` does not fit the 16-bit payload. -/
  | timeoutTooLarge
  /-- The host's logical clock lies before the present cycle, so a write cannot land at its timestamp (log 13). -/
  | timelineInPast
  /-- R85, R140: the host is blocked on a read and has no step (log 23). -/
  | blockedOnRead
deriving DecidableEq, Repr

/-- R85, R140, R173: one control thread (R130). While a read of the host is unanswered the host makes no move. -/
def unlessBlocked (s : State) (move : Except HostError State) : Except HostError State :=
  if s.reads = 0 then move else .error .blockedOnRead

/-- R134: `T = floor(period / 8) - floor(824 / 8)`, in nanoseconds. -/
def timeoutOfPeriod (periodNs : Nat) : Nat :=
  periodNs / timeoutQuantumNs - minPeriodNs / timeoutQuantumNs

/-- R133: the validation that comes before any bus write. -/
def requestInRange (samples periodNs : Nat) : Bool :=
  decide (1 ≤ samples) && decide (samples ≤ maxSampleCount) && decide (minPeriodNs ≤ periodNs)

/-- The environment with one more write in the cycle `k` places ahead. -/
def addEnvWrite : Nat → BusWrite → List EnvCycle → List EnvCycle
  | 0, w, [] => [{ EnvCycle.quiet with writes := [w] }]
  | 0, w, e :: es => { e with writes := e.writes ++ [w] } :: es
  | k + 1, w, [] => EnvCycle.quiet :: addEnvWrite k w []
  | k + 1, w, e :: es => e :: addEnvWrite k w es

/-- R131: a write with timestamp `t` lands in cycle `t`. `none` when that cycle is over. -/
def landAt (t : Nat) (w : BusWrite) (s : State) : Option State :=
  if t < s.cycle then none
  else if t = s.cycle then some { s with ports := { s.ports with writes := s.ports.writes ++ [w] } }
  else some { s with env := addEnvWrite (t - s.cycle - 1) w s.env }

/-- R131, R136, R137: the host issues a write at `now` and then lets one coarse period pass on its clock. To let more
time pass it waits (`hostWait`). -/
def issueWrite (id : RegisterId) (data : Payload) (s : State) : Except HostError State :=
  unlessBlocked s
    (match landAt s.host.now { addr := busAddress s.config.deviceChannel id, data := data } s with
    | some s' => .ok { s' with host := { s'.host with now := s'.host.now + 1 } }
    | none => .error .timelineInPast)

/-- R131, R187: the caller advances its timeline by some cycles without a write, as to wait for the end of a burst.
DESIGN CHOICE (log 22): the spec has the caller do so and names no move for it. -/
def hostWait (cycles : Nat) (s : State) : Except HostError State :=
  unlessBlocked s (.ok { s with host := { s.host with now := s.host.now + cycles } })

/-- What a request that `prepare` accepts issues (R136): WR_TIMEOUT at `now`, WR_COUNT at `now + 1`. -/
def issueRequest (samples periodNs : Nat) (s : State) : Except HostError State := do
  let s1 ← issueWrite 0x01 (BitVec.ofNat 16 (timeoutOfPeriod periodNs)) s
  let s2 ← issueWrite 0x02 (BitVec.ofNat 16 samples) s1
  return { s2 with host := { s2.host with pendingSamples := samples } }

/-- R133-R136: `prepare(sample_count, period)`. -/
def hostPrepare (samples periodNs : Nat) (s : State) : Except HostError State :=
  unlessBlocked s
    (if !requestInRange samples periodNs then .error .rangeError
    else if 0xFFFF < timeoutOfPeriod periodNs then .error .timeoutTooLarge
    else issueRequest samples periodNs s)

/-- R137: `trigger()`: WR_TRIGGER with payload 0x0001 at `now`. -/
def hostTrigger (s : State) : Except HostError State :=
  issueWrite 0x00 0x0001 s

/-- R138: `sample` is `prepare` and then `trigger`. -/
def hostSample (samples periodNs : Nat) (s : State) : Except HostError State := do
  let s1 ← hostPrepare samples periodNs s
  hostTrigger s1

/-- R150: the host issues one RD_WORD. -/
def hostRead (s : State) : Except HostError State :=
  unlessBlocked s (.ok { s with reads := 1 })

/-- R139: `transfer()` issues `sample_count × 4` reads. When the last of them has been answered the pending sample count
is set to 0 (`HostSide.receive`, log 23). -/
def hostTransfer (s : State) : Except HostError State :=
  unlessBlocked s (.ok { s with
    reads := s.host.pendingSamples * wordsPerSample
    host := { s.host with transferLeft := s.host.pendingSamples * wordsPerSample } })

/-- R144: the two codes of a word in channel order. -/
def unpackPair (order : PairOrder) (w : Word) : List Code :=
  match order with
  | .evenHigh => [w.extractLsb' 16 16, w.extractLsb' 0 16]
  | .evenLow => [w.extractLsb' 0 16, w.extractLsb' 16 16]

/-- R146: the host reads a code as two's complement. -/
def rawCode (code : Code) : Int :=
  code.toInt

/-- R145: code `i` belongs to channel `i mod 8`; numbering starts at `i`. -/
def assignChannels : Nat → List Code → List (Nat × Int)
  | _, [] => []
  | i, code :: codes => (i % channelCount, rawCode code) :: assignChannels (i + 1) codes

/-- R144-R146: `decode()` up to the raw codes: each code of the words in arrival order with its channel. The voltages
are out of the block's scope (R4, R147). -/
def hostDecode (order : PairOrder) (words : List Word) : List (Nat × Int) :=
  assignChannels 0 (words.flatMap (unpackPair order))

end Sys2Proof.Machine
end

