-- ==== Sys2Proof/Safety.lean ====
section
/-! DEFINITION. The terms in which claims about the machine are stated: the marks' premise (spec/10_state.md R31), the
invariant of the reachable states (spec/41_fsm.md R117), the end of a run (spec/42_host_protocol.md R149), and inputs
that leave the block alone for some cycles. -/

namespace Sys2Proof.Machine

/-- R31: "not refused and no fault recorded", the premise of a claim about the hardware. -/
def State.clean (s : State) : Bool :=
  !s.refused && s.faults.isEmpty

/-- R117, the clause for states other than Idle, with `sc <= N - 1` (there stated for Reading) in all of them. -/
abbrev busyInvariant (s : State) : Prop :=
  s.state ≠ .idle →
    s.wrT = true ∧ s.wrN = true ∧ 1 ≤ s.sampleCount.toNat ∧ s.sampleCount.toNat ≤ maxSampleCount ∧
      s.sc.toNat ≤ s.sampleCount.toNat - 1

/-- R117, the clause for ConversionWait under either `WAIT_OFFSET`. -/
abbrev waitInvariant (s : State) : Prop :=
  s.state = .conversionWait →
    s.tc.toNat ≤ s.conversionTimeout.toNat ∧ (s.config.waitOffset = .zero → 1 ≤ s.tc.toNat)

/-- R30: the FIFO holds at most `FIFO_DEPTH` words. -/
abbrev fifoInvariant (s : State) : Prop :=
  s.fifo.length ≤ s.config.fifoDepth

/-- The boolean of R31 says exactly whether a refusal has been raised. -/
abbrev markInvariant (s : State) : Prop :=
  s.refused = true ↔ s.refusals ≠ []

/-- R139: the reads of a `transfer` in progress are outstanding, and the samples they are for are still pending. -/
abbrev transferInvariant (s : State) : Prop :=
  s.host.transferLeft ≤ s.reads ∧ s.host.transferLeft ≤ s.host.pendingSamples * wordsPerSample

/-- What every step keeps. -/
abbrev State.Inv (s : State) : Prop :=
  busyInvariant s ∧ waitInvariant s ∧ fifoInvariant s ∧ markInvariant s ∧ transferInvariant s

/-- No write is on its way to the block, from its host or a second one: none in the present cycle, none in a coming one.
Writes to other channels are no writes to the block (R61). -/
abbrev noWritePending (s : State) : Prop :=
  ((∀ w ∈ s.ports.writes, decodeBus s.config w = none) ∧ s.ports.secondHost = false) ∧
    ∀ e ∈ s.env, (∀ w ∈ e.writes, decodeBus s.config w = none) ∧ e.secondHost = false

/-- R149: the end of a host run. That every triggered burst is drained says that the block is Idle with an empty FIFO
and no fault, and that no read of the host is unanswered (DEDUCED, log 24). -/
abbrev runEnded (s : State) : Prop :=
  s.state = .idle ∧ s.fifo = [] ∧ noWritePending s ∧ s.reads = 0 ∧ s.clean = true

/-- A coming cycle without reset, writes and reads: only the ADC's pins are left open. -/
abbrev EnvCycle.untouched (e : EnvCycle) : Prop :=
  e.rst = false ∧ e.writes = [] ∧ e.secondHost = false ∧ e.reads = 0

/-- The present cycle has no reset and no write, and no read of the host is unanswered. -/
abbrev State.untouched (s : State) : Prop :=
  s.ports.rst = false ∧ s.ports.writes = [] ∧ s.ports.secondHost = false ∧ s.reads = 0

/-- The present cycle and all coming ones the environment lists leave the block alone. -/
abbrev State.leftAlone (s : State) : Prop :=
  s.untouched ∧ ∀ e ∈ s.env, e.untouched

/-- A cycle with no reset, no write to this block and no read that can be answered. Writes to other channels may land
(R61), and the host may be blocked on a read (R85). -/
abbrev State.noTransaction (s : State) : Prop :=
  s.ports.rst = false ∧ s.ports.secondHost = false ∧ (∀ w ∈ s.ports.writes, decodeBus s.config w = none) ∧
    readReady s = false

/-- The seven reserved writes with a given id and payload, one for each reserved row of the table (R72). -/
def reservedWrites (id : RegisterId) (data : Payload) : List Instr :=
  [.wrReserved03 data, .wrReserved04 id data, .wrReserved08 id data, .wrReserved10 id data, .wrReserved20 id data,
    .wrReserved40 id data, .wrReserved80 id data]

/-- Every write with a given id and payload. -/
def allWrites (id : RegisterId) (data : Payload) : List Instr :=
  .wrTrigger data :: .wrTimeout data :: .wrCount data :: reservedWrites id data

/-- `k` steps of the machine, stopping at a fault or a refusal. -/
def runSteps (k : Nat) (s : State) : Host.Outcome State Fault Refusal :=
  Sys2Proof.core.run k s

/-- R44: the four words of a bank, in the order Reading pushes them (R106, R107). -/
def bankWords (order : PairOrder) (bank : Codes) : List Word :=
  [muxWord order bank 0, muxWord order bank 1, muxWord order bank 2, muxWord order bank 3]

/-- R116: `W`, the ConversionWait cycles between two samples. -/
def waitCycles (s : State) : Nat :=
  if s.conversionTimeout = 0 then 0 else s.conversionTimeout.toNat + s.config.waitOffset.cycles

/-- The ADC's draws for the samples of a burst. `env` begins with the cycle after a StartAcquire cycle; a sample
`(a, codes)` keeps `adc_done` at 0 for `a` Acquiring cycles and completes with `codes` in the next one (R34, D35), and
`wait` cycles lie between two samples. What the pins carry in the other cycles is left open. -/
def adcServes (wait : Nat) : List (Nat × Codes) → List EnvCycle → Prop
  | [], _ => True
  | (a, codes) :: rest, env =>
    (∀ k < a, (env.getD k EnvCycle.quiet).adc.map AdcPins.done = some false) ∧
      (env.getD a EnvCycle.quiet).adc = some ⟨true, codes⟩ ∧ adcServes wait rest (env.drop (a + 6 + wait))

/-- R116: the cycles from the first StartAcquire of a burst to Idle, for samples with `a + 1` Acquiring cycles. -/
def burstCycles (wait : Nat) (draws : List (Nat × Codes)) : Nat :=
  (draws.map (fun d => d.1 + 6)).sum + (draws.length - 1) * wait

/-- The writes that the environment will land, or lands now, in cycle `c`. -/
def writesAt (c : Nat) (s : State) : List BusWrite :=
  if c < s.cycle then []
  else if c = s.cycle then s.ports.writes
  else (s.env.getD (c - s.cycle - 1) EnvCycle.quiet).writes

/-- Between `s` and `t` the host has only put writes on its timeline: of the present and the coming cycles nothing but
the writes differs, and of the rest of the state nothing but the host's side. -/
abbrev onlyWritesAdded (s t : State) : Prop :=
  { t with host := s.host, env := s.env, ports := { t.ports with writes := s.ports.writes } } = s ∧
    ∀ k, { t.env.getD k EnvCycle.quiet with writes := (s.env.getD k EnvCycle.quiet).writes } =
      s.env.getD k EnvCycle.quiet

end Sys2Proof.Machine
end

