-- ==== Sys2Proof/Certificates/Slice0/Obligations.lean ====
section
/-! DEFINITION. The statements for the provers, from the numbered rules of spec/. A state is any state, reachable or
not, unless a premise says otherwise. What stands in a rule as a decision of the spec (its D entries) or as the model's
choice (the log) is named in the docstring. -/

open Sys2Proof Sys2Proof.Machine

/-! ## Encoding -/

/-- Rests on spec/30_encoding.md section 2 (the packing is the spec's own, D2). No bit of a transaction is dropped. -/
def Obligations.DecodeOfEncodeIsTheInstruction : Prop :=
  ∀ i : Instr, i.wellFormed = true → decode (encode i) = .ok i

/-- Rests on spec/30_encoding.md section 2. What decodes is well formed and encodes to the same bytes; bytes that are
neither a write's three nor a read's none are rejected by name. -/
def Obligations.EncodeOfDecodeIsTheBytes : Prop :=
  (∀ (bytes : List Byte) (i : Instr), decode bytes = .ok i → i.wellFormed = true ∧ encode i = bytes) ∧
    ∀ bytes : List Byte, bytes.length ≠ 0 → bytes.length ≠ 3 → decode bytes = .error (.badLength bytes.length)

/-- The examples of spec/30_encoding.md section 2 and spec/95_test_vectors.md section 2.1, as table words. -/
def Obligations.WordsOfTheSpecDecode : Prop :=
  decodeTableWord 24 0x000001 = some (.wrTrigger 0x0001) ∧
    decodeTableWord 24 0x010016 = some (.wrTimeout 22) ∧
    decodeTableWord 24 0x020400 = some (.wrCount 1024) ∧
    decodeTableWord 24 0x030001 = some (.wrReserved03 0x0001) ∧
    decodeTableWord 24 0x080000 = some (.wrReserved08 0x08 0) ∧
    decodeTableWord 24 0xFF0000 = some (.wrReserved80 0xFF 0) ∧
    decodeTableWord 0 0 = some .rdWord

/-- The register address decoder of spec/30_encoding.md section 1, for any address map and for the map it gives (which
ids are reserved is D4 and D5; the map is D3). -/
def Obligations.RegisterIdSelectsTheRegister : Prop :=
  (∀ (m : AddrMap) (id : RegisterId), 8 ≤ id.toNat → regTarget m id = .reserved) ∧
    (∀ (m : AddrMap) (id : RegisterId), id.toNat < 8 → regTarget m id = m.lookup (id.extractLsb' 0 3)) ∧
    regTarget AddrMap.interfaceListing 0 = .trigger ∧
    regTarget AddrMap.interfaceListing 1 = .conversionTimeout ∧
    regTarget AddrMap.interfaceListing 2 = .sampleCount ∧
    ∀ id : RegisterId, 3 ≤ id.toNat → regTarget AddrMap.interfaceListing id = .reserved

/-- Spec/30_encoding.md section 1: the channel and the id of a bus address. A write on this block's channel is a
transaction, well formed under R8's map and never the read; a write on another channel is none (D6). -/
def Obligations.BusAddressSelectsTheBlock : Prop :=
  (∀ (c : Config) (channel : Nat) (id : RegisterId) (data : Payload),
      decodeBus c ⟨busAddress channel id, data⟩ =
        if channel = c.deviceChannel then some (decodeWrite c.addrMap id data) else none) ∧
    ∀ (c : Config) (w : BusWrite) (i : Instr), c.addrMap = AddrMap.interfaceListing → decodeBus c w = some i →
      i.wellFormed = true ∧ i ≠ .rdWord

/-- Spec/30_encoding.md section 1 (D6): a write to another channel changes nothing in what a cycle does, wherever it
stands among the writes of the cycle. -/
def Obligations.OtherChannelWriteHasNoEffect : Prop :=
  ∀ (s : State) (before after : List BusWrite) (w : BusWrite),
    deviceChannel w.addr ≠ s.config.deviceChannel → readReady s = false →
      step { s with ports := { s.ports with writes := before ++ w :: after } } =
        step { s with ports := { s.ports with writes := before ++ after } }

/-! ## Steps -/

/-- Spec/40_bus_transactions.md sections 1 and 2: the first write on this block's channel in the cycle is executed, with
it and the writes of other channels before it taken from the ports, when no read can be answered first (log 9). -/
def Obligations.StepRunsTheLandedWrite : Prop :=
  ∀ (s : State) (before after : List BusWrite) (w : BusWrite) (i : Instr),
    readReady s = false → s.ports.writes = before ++ w :: after →
      (∀ v ∈ before, decodeBus s.config v = none) → decodeBus s.config w = some i →
        step s = exec i { s with ports := { s.ports with writes := after } }

/-- Spec/40_bus_transactions.md section 3 (D23, D36; log 9): a read that the FIFO can answer is executed first; a
blocked one is executed in a cycle in which no write to the block lands; without either the cycle just passes. -/
def Obligations.StepRunsTheHostsRead : Prop :=
  ∀ s : State,
    (s.reads ≠ 0 → s.fifo ≠ [] → step s = exec .rdWord (takeRead s)) ∧
      (s.reads ≠ 0 → s.fifo = [] → (∀ v ∈ s.ports.writes, decodeBus s.config v = none) →
        step s = exec .rdWord (takeRead s)) ∧
      (s.reads = 0 → (∀ v ∈ s.ports.writes, decodeBus s.config v = none) → step s = .next (quietCycle s))

/-- The model's loading interface (log 8, log 11): the transaction whose table bits are placed is the next executed. -/
def Obligations.PlacedTransactionRunsNext : Prop :=
  ∀ (s : State) (nbits w : Nat) (i : Instr),
    s.config.addrMap = AddrMap.interfaceListing → decodeTableWord nbits w = some i →
      step (s.withFetchWord nbits w) = exec i { s with reads := 0, ports := { s.ports with writes := [] } }

/-- Spec/41_fsm.md sections 1 and 8: there are no error states, and the marks of spec/60_exceptions.md are kept in the
state (D26, log 1); so a step and a transaction always complete. -/
def Obligations.EveryStepCompletes : Prop :=
  (∀ s : State, ∃ t, step s = .next t) ∧ ∀ (i : Instr) (s : State), ∃ t, exec i s = .next t

/-- Spec/41_fsm.md section 1: in every cycle with `rst = 0` the FSM makes its step, whatever the host does; the pulse is
there exactly when a trigger lands and is admitted. -/
def Obligations.EveryCycleRunsTheFsm : Prop :=
  ∀ s t : State, step s = .next t → s.ports.rst = false → readReady s = false →
    ∃ trig : Bool,
      (trig = true ↔ ∃ data s', fetchWrite s = some (.wrTrigger data, s') ∧ triggerRefusal data s' = none) ∧
        t.state = (fsmStep trig s).state ∧ t.sc = (fsmStep trig s).sc ∧ t.mux = (fsmStep trig s).mux ∧
        t.tc = (fsmStep trig s).tc ∧ t.bank = (fsmStep trig s).bank ∧ t.fifo = (fsmStep trig s).fifo ∧
        t.faults = (fsmStep trig s).faults

/-- Spec/00_scope.md section 5: a step is one cycle, or a host read between two cycles, which changes nothing of the
block but the FIFO (spec/40_bus_transactions.md section 3, D36). No step changes the parameters. -/
def Obligations.StepIsOneCycleOrOneRead : Prop :=
  ∀ s t : State, step s = .next t →
    t.config = s.config ∧
      ((t.cycle = s.cycle + 1 ∧ t.host = s.host ∧ t.env = s.env.tail ∧
          t.ports = (nextEnv s).toPorts (s.cycle + 1)) ∨
        ∃ w rest, s.fifo = w :: rest ∧ s.reads ≠ 0 ∧
          t = { s with
            fifo := rest
            reads := s.reads - 1
            host := s.host.receive w })

/-- The model's inputs (log 7, log 8), for the ports of spec/10_state.md section 7: the end of a cycle brings what the
environment lists for the next one, with free pins where it lists no draw of the ADC, and nothing when it lists nothing;
only the number of the cycle, the ports, the reads and the list itself change. -/
def Obligations.EndOfCycleBringsTheNextInputs : Prop :=
  (∀ (s : State) (e : EnvCycle) (es : List EnvCycle), s.env = e :: es →
      endCycle s =
        { s with
          cycle := s.cycle + 1
          ports := ⟨e.rst, e.writes, e.secondHost,
            match e.adc with
            | some pins => pins.done
            | none => Config.freeAdcDone (s.cycle + 1),
            match e.adc with
            | some pins => pins.code
            | none => Config.freeAdcCode (s.cycle + 1)⟩
          reads := s.reads + e.reads
          env := es }) ∧
    ∀ s : State, s.env = [] →
      endCycle s =
        { s with
          cycle := s.cycle + 1
          ports := ⟨false, [], false, Config.freeAdcDone (s.cycle + 1), Config.freeAdcCode (s.cycle + 1)⟩ }

/-! ## The writes -/

/-- Spec/40_bus_transactions.md section 2 and spec/41_fsm.md section 2 (D8, D9, D12, D13, D15): an admitted trigger
starts the burst in this cycle and changes nothing else of the block. -/
def Obligations.AdmittedTriggerStartsTheBurst : Prop :=
  ∀ s : State, s.ports.rst = false → anotherWriteLands s = false → s.state = .idle → s.wrT = true → s.wrN = true →
    1 ≤ s.sampleCount.toNat → s.sampleCount.toNat ≤ 1024 →
      adcStart s = false ∧ exec (.wrTrigger 0x0001) s = .next (endCycle { s with sc := 0, state := .startAcquire })

/-- Spec/40_bus_transactions.md section 2 (D8, D9, D13, D15, D26; log 1): a trigger that fails a check only sets the
mark, under the name of the first check it fails, and the FSM makes its step. -/
def Obligations.UnadmittedTriggerIsMarked : Prop :=
  ∀ (s : State) (data : Payload) (name : Refusal), s.ports.rst = false → anotherWriteLands s = false →
    (if data ≠ 0x0001 then some Refusal.triggerPayload
      else if s.state ≠ .idle then some Refusal.triggerWhileBusy
      else if s.wrT = false ∨ s.wrN = false then some Refusal.configUnwritten
      else if s.sampleCount.toNat = 0 ∨ 1024 < s.sampleCount.toNat then some Refusal.sampleCountRange
      else none) = some name →
        exec (.wrTrigger data) s =
          .next { endCycle (fsmStep false s) with refused := true, refusals := s.refusals ++ [name] }

/-- Spec/40_bus_transactions.md section 2 (D7, D10, D16): WR_TIMEOUT in Idle stores the whole payload and nothing else
changes, for every payload. -/
def Obligations.TimeoutWriteStoresThePayload : Prop :=
  ∀ (s : State) (data : Payload), s.ports.rst = false → anotherWriteLands s = false → s.state = .idle →
    exec (.wrTimeout data) s = .next (endCycle { s with conversionTimeout := data, wrT := true })

/-- Spec/40_bus_transactions.md section 2 (D7, D10, D16): WR_COUNT in Idle stores the whole payload, 0 and values above
1024 too, and nothing else changes. -/
def Obligations.CountWriteStoresThePayload : Prop :=
  ∀ (s : State) (data : Payload), s.ports.rst = false → anotherWriteLands s = false → s.state = .idle →
    exec (.wrCount data) s = .next (endCycle { s with sampleCount := data, wrN := true })

/-- Spec/40_bus_transactions.md section 1 (D10, D26; log 1): a configuration write outside Idle only sets the mark, and
the FSM makes its step. -/
def Obligations.ConfigWriteWhileBusyIsMarked : Prop :=
  ∀ (s : State) (data : Payload) (i : Instr), i = .wrTimeout data ∨ i = .wrCount data →
    s.ports.rst = false → anotherWriteLands s = false → s.state ≠ .idle →
      exec i s =
        .next { endCycle (fsmStep false s) with refused := true, refusals := s.refusals ++ [.configWhileBusy] }

/-- Spec/40_bus_transactions.md section 2 (D4, D5, D26; log 1): every reserved write, in every state and with every
payload, only sets the mark, and the FSM makes its step. -/
def Obligations.ReservedWriteIsMarked : Prop :=
  ∀ (s : State) (id : RegisterId) (data : Payload), s.ports.rst = false → anotherWriteLands s = false →
    ∀ i ∈ reservedWrites id data,
      exec i s =
        .next { endCycle (fsmStep false s) with refused := true, refusals := s.refusals ++ [.reservedRegister] }

/-- Spec/40_bus_transactions.md section 4 (D11, D26; log 1, log 2, log 3): a write that collides with another is refused
before anything else is looked at; a second host's write is marked besides. -/
def Obligations.CollidingWriteIsMarked : Prop :=
  ∀ (s : State) (id : RegisterId) (data : Payload), s.ports.rst = false → anotherWriteLands s = true →
    ∀ i ∈ allWrites id data,
      exec i s =
        .next { endCycle (fsmStep false s) with
          refused := true
          refusals := s.refusals ++ .writeCollision :: if s.ports.secondHost then [.secondHost] else [] }

/-- Spec/40_bus_transactions.md section 4 (D24, D26; log 1, log 2, log 3): a write that lands in a reset cycle is
refused first of all; the block is reset. One name is recorded for all the sequencer's writes of the cycle (log 2), and a
second host's write of that cycle is marked besides. -/
def Obligations.WriteDuringResetIsMarked : Prop :=
  ∀ (s : State) (id : RegisterId) (data : Payload), s.ports.rst = true →
    ∀ i ∈ allWrites id data,
      exec i s =
        .next { endCycle (deviceReset s) with
          refused := true
          refusals := s.refusals ++ .writeDuringReset :: if s.ports.secondHost then [.writeDuringReset] else [] }

/-- Spec/42_host_protocol.md section 1 (D1; log 3): a second host's write only sets the mark. -/
def Obligations.SecondHostIsMarked : Prop :=
  ∀ s : State, s.ports.rst = false → s.ports.secondHost = true → readReady s = false →
    (∀ w ∈ s.ports.writes, decodeBus s.config w = none) →
      step s = .next { endCycle (fsmStep false s) with refused := true, refusals := s.refusals ++ [.secondHost] }

/-- The frame of the writes (spec/10_state.md sections 2 and 3; spec/40_bus_transactions.md section 2): only WR_TIMEOUT
touches ConversionTimeout, only WR_COUNT SampleCount, only a trigger in Idle what the FSM's own step does not. The
words already in the FIFO stay, and so do the recorded faults, the host's side and the parameters. -/
def Obligations.WritesLeaveTheRestUnchanged : Prop :=
  ∀ (s t : State) (id : RegisterId) (data : Payload) (i : Instr), i ∈ allWrites id data → s.ports.rst = false →
    exec i s = .next t →
      t.host = s.host ∧ t.config = s.config ∧ (∃ more, t.fifo = s.fifo ++ more) ∧ (∃ more, t.faults = s.faults ++ more) ∧
        (i ≠ .wrTimeout data → t.conversionTimeout = s.conversionTimeout ∧ t.wrT = s.wrT) ∧
        (i ≠ .wrCount data → t.sampleCount = s.sampleCount ∧ t.wrN = s.wrN) ∧
        (i ≠ .wrTrigger data ∨ s.state ≠ .idle →
          t.state = (fsmStep false s).state ∧ t.sc = (fsmStep false s).sc ∧ t.mux = (fsmStep false s).mux ∧
            t.tc = (fsmStep false s).tc ∧ t.bank = (fsmStep false s).bank ∧ t.fifo = (fsmStep false s).fifo ∧
            t.faults = (fsmStep false s).faults)

/-! ## The read -/

/-- Spec/20_memory.md section 1 and spec/40_bus_transactions.md section 3 (D36): RD_WORD returns the oldest word to the
host and removes it; nothing else of the block changes. Of the host, the word is appended to the buffer, which keeps what
it held (log 21), and the last word of a `transfer` clears the pending sample count (the model's countdown, log 23). -/
def Obligations.ReadReturnsTheOldestWord : Prop :=
  ∀ (s : State) (w : Word) (rest : List Word), s.fifo = w :: rest →
    exec .rdWord s = .next { s with
      fifo := rest
      host :=
        { now := s.host.now
          pendingSamples := if s.host.transferLeft = 1 then 0 else s.host.pendingSamples
          transferLeft := s.host.transferLeft - 1
          buffer := s.host.buffer ++ [w] } }

/-- Spec/40_bus_transactions.md section 3 (D23; log 9): on an empty FIFO the read stays unanswered and the block's cycle
passes. -/
def Obligations.ReadOnEmptyFifoBlocks : Prop :=
  ∀ s : State, s.fifo = [] → s.ports.rst = false → s.ports.secondHost = false →
    exec .rdWord s = .next { endCycle (fsmStep false s) with
      reads := s.reads + 1 + (nextEnv s).reads }

/-! ## The FSM -/

/-- R102. Idle without the trigger pulse: the FSM's registers, the FIFO and the faults do not change, whatever else
lands; and nothing at all changes when nothing lands. -/
def Obligations.IdleWithoutTriggerStays : Prop :=
  (∀ s : State, s.state = .idle → s.ports.rst = false → readReady s = false →
      (∀ data s', fetchWrite s = some (.wrTrigger data, s') → triggerRefusal data s' ≠ none) →
        adcStart s = false ∧ ∃ t, step s = .next t ∧ t.state = .idle ∧ t.sc = s.sc ∧ t.mux = s.mux ∧ t.tc = s.tc ∧
          t.bank = s.bank ∧ t.fifo = s.fifo ∧ t.faults = s.faults) ∧
    ∀ s : State, s.noTransaction → s.state = .idle → step s = .next (endCycle s)

/-- Spec/41_fsm.md section 3 and spec/10_state.md section 7 (D30): StartAcquire lasts one cycle, and the start pulse is 1
in StartAcquire, whatever else happens in the cycle (log 15), and in no other state. -/
def Obligations.StartAcquirePulsesForOneCycle : Prop :=
  (∀ s : State, s.noTransaction → s.state = .startAcquire →
      step s = .next (endCycle { s with state := .acquiring })) ∧
    ∀ s : State, adcStart s = true ↔ s.state = .startAcquire

/-- Spec/41_fsm.md section 4 (D20): completion captures the eight codes, clears `mux` and goes to Reading. -/
def Obligations.CompletionCapturesTheCodes : Prop :=
  ∀ s : State, s.noTransaction → s.state = .acquiring → s.ports.adcDone = true →
    step s = .next (endCycle { s with bank := s.ports.adcCode, mux := 0, state := .reading })

/-- Spec/41_fsm.md section 4: without completion an Acquiring cycle changes nothing. -/
def Obligations.AcquiringWaitsForCompletion : Prop :=
  ∀ s : State, s.noTransaction → s.state = .acquiring → s.ports.adcDone = false →
    adcStart s = false ∧ step s = .next (endCycle s)

/-- R109. Reading before the last word, with room in the FIFO: the word is pushed, only `mux` changes besides. -/
def Obligations.ReadingPushesAndStays : Prop :=
  ∀ s : State, s.noTransaction → s.state = .reading → s.mux ≠ 3 → s.fifo.length < s.config.fifoDepth →
    step s = .next (endCycle
      { s with fifo := s.fifo ++ [muxWord s.config.pairOrder s.bank s.mux], mux := s.mux + 1 })

/-- Spec/41_fsm.md section 5 (D19): the branch at the last word, with room in the FIFO and `N >= 1`: word 3 is pushed in
every case. -/
def Obligations.LastWordBranches : Prop :=
  ∀ s pushed : State, s.noTransaction → s.state = .reading → s.mux = 3 → s.fifo.length < s.config.fifoDepth →
    1 ≤ s.sampleCount.toNat →
    pushed = { s with fifo := s.fifo ++ [muxWord s.config.pairOrder s.bank 3], mux := 0 } →
      step s = .next (endCycle
        (if s.sc.toNat = s.sampleCount.toNat - 1 then { pushed with state := .idle }
          else if s.conversionTimeout = 0 then { pushed with sc := s.sc + 1, state := .startAcquire }
          else { pushed with sc := s.sc + 1, tc := s.conversionTimeout, state := .conversionWait }))

/-- Spec/41_fsm.md section 7 (D22, D26; log 1): a push onto a full FIFO is recorded with the cycle, `sc` and `mux`, the
word is not pushed, and the FSM goes on as it does otherwise. -/
def Obligations.FullFifoRecordsTheFault : Prop :=
  ∀ s faulted : State, s.noTransaction → s.state = .reading → s.config.fifoDepth ≤ s.fifo.length →
    faulted = { s with faults := s.faults ++ [.fifoOverflow s.cycle s.sc s.mux], mux := s.mux + 1 } →
      step s = .next (endCycle
        (if s.mux ≠ 3 then faulted
          else if s.sc.toNat = s.sampleCount.toNat - 1 then { faulted with state := .idle }
          else if s.conversionTimeout = 0 then { faulted with sc := s.sc + 1, state := .startAcquire }
          else { faulted with sc := s.sc + 1, tc := s.conversionTimeout, state := .conversionWait }))

/-- Spec/20_memory.md section 2 (D21): word `k` carries channels `2k` and `2k + 1`, the even one in bits [31:16] under
EvenHigh and in bits [15:0] under EvenLow; and channel `c` of the bank is its code `c`. -/
def Obligations.WordCarriesThePair : Prop :=
  (∀ bank : Codes,
      channelCode bank 0 = bank.ch0 ∧ channelCode bank 1 = bank.ch1 ∧ channelCode bank 2 = bank.ch2 ∧
        channelCode bank 3 = bank.ch3 ∧ channelCode bank 4 = bank.ch4 ∧ channelCode bank 5 = bank.ch5 ∧
        channelCode bank 6 = bank.ch6 ∧ channelCode bank 7 = bank.ch7) ∧
  ∀ (bank : Codes) (k : BitVec 2),
    (muxWord .evenHigh bank k).extractLsb' 16 16 = channelCode bank (evenChannel k) ∧
      (muxWord .evenHigh bank k).extractLsb' 0 16 = channelCode bank (oddChannel k) ∧
      (muxWord .evenLow bank k).extractLsb' 0 16 = channelCode bank (evenChannel k) ∧
      (muxWord .evenLow bank k).extractLsb' 16 16 = channelCode bank (oddChannel k) ∧
      (evenChannel k).val = 2 * k.toNat ∧ (oddChannel k).val = 2 * k.toNat + 1

/-- Spec/41_fsm.md section 6 (D18): one ConversionWait cycle under either WAIT_OFFSET, `tc` at 1 or more under 0. -/
def Obligations.WaitCountsDown : Prop :=
  ∀ s : State, s.noTransaction → s.state = .conversionWait →
    (s.config.waitOffset = .zero → 1 ≤ s.tc.toNat →
      step s = .next (endCycle
        (if s.tc = 1 then { s with tc := 0, state := .startAcquire } else { s with tc := s.tc - 1 }))) ∧
      (s.config.waitOffset = .one →
        step s = .next (endCycle
          (if s.tc = 0 then { s with state := .startAcquire } else { s with tc := s.tc - 1 })))

/-- Spec/41_fsm.md section 6 (D18): ConversionWait lasts `tc + WAIT_OFFSET` cycles and changes nothing but `tc`. -/
def Obligations.WaitLastsTheTimeout : Prop :=
  ∀ (s : State) (n : Nat), s.leftAlone → s.state = .conversionWait → s.tc.toNat = n →
    (s.config.waitOffset = .zero → 1 ≤ n) →
      (∀ k < n + s.config.waitOffset.cycles, ∃ t, runSteps k s = .next t ∧ t.state = .conversionWait ∧
        t.tc.toNat = n - k) ∧
        ∃ t, runSteps (n + s.config.waitOffset.cycles) s = .next t ∧ t.state = .startAcquire ∧ t.tc = 0 ∧
          t.fifo = s.fifo ∧ t.sc = s.sc ∧ t.mux = s.mux ∧ t.bank = s.bank ∧
          t.conversionTimeout = s.conversionTimeout ∧ t.sampleCount = s.sampleCount ∧ t.faults = s.faults

/-- Spec/41_fsm.md section 5 and spec/20_memory.md section 4: four Reading cycles push the four words of the bank in
order, one a cycle, and leave Reading as the branch of the last word says. -/
def Obligations.ReadingPushesFourWords : Prop :=
  ∀ s : State, s.leftAlone → s.state = .reading → s.mux = 0 → s.fifo.length + 4 ≤ s.config.fifoDepth →
    1 ≤ s.sampleCount.toNat →
      ∃ t, runSteps 4 s = .next t ∧ t.fifo = s.fifo ++ bankWords s.config.pairOrder s.bank ∧ t.faults = s.faults ∧
        t.mux = 0 ∧
        t.state =
          if s.sc.toNat = s.sampleCount.toNat - 1 then .idle
          else if s.conversionTimeout = 0 then .startAcquire else .conversionWait

/-- Spec/41_fsm.md section 8 (derived laws of burst output and burst length): from the first StartAcquire a burst of `N`
samples pushes exactly `4N` words, each sample's four in order, and is Idle again after the cycles the law gives, when
the host leaves it alone and the FIFO has room. -/
def Obligations.BurstPushesAllItsWords : Prop :=
  ∀ (s : State) (draws : List (Nat × Codes)), s.leftAlone → s.state = .startAcquire → s.sc = 0 →
    s.sampleCount.toNat = draws.length → 1 ≤ draws.length → draws.length ≤ 1024 →
    s.fifo.length + 4 * draws.length ≤ s.config.fifoDepth → adcServes (waitCycles s) draws s.env →
      ∃ t, runSteps (burstCycles (waitCycles s) draws) s = .next t ∧ t.state = .idle ∧
        t.fifo = s.fifo ++ draws.flatMap (fun d => bankWords s.config.pairOrder d.2) ∧
        t.sc.toNat = draws.length - 1 ∧ t.faults = s.faults ∧ t.refused = s.refused ∧
        t.conversionTimeout = s.conversionTimeout ∧ t.sampleCount = s.sampleCount ∧
        t.cycle = s.cycle + burstCycles (waitCycles s) draws

/-! ## Rules of the whole machine -/

/-- Spec/41_fsm.md section 8 (derived invariants, with the model's own three on the FIFO, the marks and a transfer in
progress, log 1 and log 23): every step keeps the invariant. -/
def Obligations.StepKeepsTheInvariant : Prop :=
  ∀ s t : State, s.Inv → step s = .next t → t.Inv

/-- Spec/10_state.md sections 6 and 8, spec/70_reset_and_hazards.md section 1: the invariant holds at reset, under any
parameters. -/
def Obligations.ResetMeetsTheInvariant : Prop :=
  (∀ c : Config, (State.resetWith c).Inv) ∧ State.reset = State.resetWith Config.testVectors

/-- Spec/10_state.md section 6 (D26): a mark is never cleared and a recorded fault never removed, not even by a reset. -/
def Obligations.MarksAreNeverCleared : Prop :=
  ∀ s t : State, step s = .next t →
    (s.refused = true → t.refused = true) ∧ (∃ more, t.faults = s.faults ++ more) ∧
      ∃ more, t.refusals = s.refusals ++ more

/-- Spec/41_fsm.md section 2: only an admitted trigger takes the FSM out of Idle, and to StartAcquire. -/
def Obligations.OnlyAnAdmittedTriggerLeavesIdle : Prop :=
  ∀ s t : State, step s = .next t → s.state = .idle → t.state ≠ .idle →
    t.state = .startAcquire ∧ t.sc = 0 ∧
      ∃ s', fetchWrite s = some (.wrTrigger 0x0001, s') ∧ triggerRefusal 0x0001 s' = none

/-- Spec/42_host_protocol.md section 4 and spec/70_reset_and_hazards.md section 1: nothing ends a burst but its last
word and a device reset. -/
def Obligations.OnlyTheLastWordOrAResetEndsABurst : Prop :=
  ∀ s t : State, step s = .next t → s.state ≠ .idle → t.state = .idle →
    s.ports.rst = true ∨ (s.state = .reading ∧ s.mux = 3 ∧ s.sc.toNat = s.sampleCount.toNat - 1)

/-- Spec/41_fsm.md section 8: ConversionWait is entered only after the last word of a sample that is not the last, with
a timeout other than 0, which is loaded. -/
def Obligations.OnlyATimeoutEntersTheWait : Prop :=
  ∀ s t : State, step s = .next t → s.state ≠ .conversionWait → t.state = .conversionWait →
    s.state = .reading ∧ s.mux = 3 ∧ s.sc.toNat ≠ s.sampleCount.toNat - 1 ∧ s.conversionTimeout ≠ 0 ∧
      t.tc = s.conversionTimeout

/-- Spec/10_state.md section 2: apart from a reset, ConversionTimeout is written by WR_TIMEOUT alone and SampleCount by
WR_COUNT alone, and by both in Idle only (D10), so a burst never sees them change; and only so does a register become
written (D15). A reset cycle leaves both unwritten (D24). -/
def Obligations.OnlyConfigWritesChangeTheConfig : Prop :=
  ∀ s t : State, step s = .next t →
    (s.ports.rst = false →
      (t.conversionTimeout ≠ s.conversionTimeout ∨ t.wrT ≠ s.wrT →
        s.state = .idle ∧
          ∃ data s', fetchWrite s = some (.wrTimeout data, s') ∧ t.conversionTimeout = data ∧ t.wrT = true) ∧
        (t.sampleCount ≠ s.sampleCount ∨ t.wrN ≠ s.wrN →
          s.state = .idle ∧
            ∃ data s', fetchWrite s = some (.wrCount data, s') ∧ t.sampleCount = data ∧ t.wrN = true)) ∧
      (s.ports.rst = true → readReady s = false → t.wrT = false ∧ t.wrN = false)

/-- Spec/20_memory.md sections 4 and 5: a step empties the FIFO by a reset, hands its head to the host, leaves it, or
appends the word of a Reading cycle; nothing else happens to it. -/
def Obligations.FifoIsAQueue : Prop :=
  ∀ s t : State, step s = .next t →
    (s.ports.rst = true ∧ t.fifo = []) ∨
      (∃ w, s.fifo = w :: t.fifo ∧ t.host.buffer = s.host.buffer ++ [w]) ∨
      t.fifo = s.fifo ∨
      (s.state = .reading ∧ s.fifo.length < s.config.fifoDepth ∧
        t.fifo = s.fifo ++ [muxWord s.config.pairOrder s.bank s.mux])

/-- Spec/42_host_protocol.md section 6 (D37; log 24): a run that has ended stays ended while the host issues no read. -/
def Obligations.EndedRunStaysEnded : Prop :=
  ∀ s : State, runEnded s → (∀ e ∈ s.env, e.reads = 0) →
    ∃ t, step s = .next t ∧ runEnded t ∧ t.cycle = s.cycle + 1

/-! ## Reset -/

/-- Spec/70_reset_and_hazards.md section 1 (D24): a reset cycle makes the block idle, empties the FIFO and unwrites both
registers, whatever the FSM was doing; a second host's write in it is marked (log 3) and otherwise the marks, the host's side and the parameters stay. What becomes unspecified (log 6) is not spoken of. -/
def Obligations.DeviceResetClearsTheBlock : Prop :=
  ∀ s : State, s.ports.rst = true → readReady s = false →
    (∀ w ∈ s.ports.writes, decodeBus s.config w = none) →
      ∃ t, step s = .next t ∧
        t.state = .idle ∧ t.fifo = [] ∧ t.wrT = false ∧ t.wrN = false ∧ adcStart t = false ∧
        t.refused = (s.refused || s.ports.secondHost) ∧
        t.refusals = s.refusals ++ (if s.ports.secondHost then [.writeDuringReset] else []) ∧
        t.faults = s.faults ∧ t.host = s.host ∧ t.config = s.config ∧ t.cycle = s.cycle + 1

/-- Spec/10_state.md section 8 and spec/70_reset_and_hazards.md section 1 (D24): what power-up leaves. The values for
which the spec states none (log 5) are not spoken of. -/
def Obligations.PowerUpLeavesIdle : Prop :=
  ∀ c : Config,
    (State.resetWith c).state = .idle ∧ (State.resetWith c).fifo = [] ∧ (State.resetWith c).wrT = false ∧
      (State.resetWith c).wrN = false ∧ (State.resetWith c).refused = false ∧ (State.resetWith c).faults = [] ∧
      (State.resetWith c).cycle = 0 ∧ adcStart (State.resetWith c) = false ∧ (State.resetWith c).clean = true

/-- Spec/95_test_vectors.md section 2.7 (D15, D24; the recorded name: log 1): a trigger with payload 1 in the cycle after
a reset cycle is refused and leaves the block Idle. -/
def Obligations.TriggerAfterResetIsMarked : Prop :=
  ∀ s t u : State, s.ports.rst = true → readReady s = false → step s = .next t → t.ports.rst = false →
    anotherWriteLands t = false → exec (.wrTrigger 0x0001) t = .next u →
      u.state = .idle ∧ u.refused = true ∧ u.refusals = t.refusals ++ [.configUnwritten]

/-! ## The host's side -/

/-- R133. An invalid request issues no write and changes nothing: the only answer is the error. A host that is blocked on
a read makes no request (`BlockedHostHasNoMove`). -/
def Obligations.InvalidRequestIssuesNothing : Prop :=
  ∀ (s : State) (samples periodNs : Nat), s.reads = 0 → samples = 0 ∨ 1024 < samples ∨ periodNs < 824 →
    hostPrepare samples periodNs s = .error .rangeError ∧ hostSample samples periodNs s = .error .rangeError

/-- R134. `T = floor(period / 8) - 103`, an integer that is never negative, and 0 at the minimum period. -/
def Obligations.TimeoutIsThePeriodBeyondTheMinimum : Prop :=
  (∀ periodNs : Nat, 824 ≤ periodNs → (timeoutOfPeriod periodNs : Int) = (periodNs / 8 : Nat) - 103 ∧
      0 ≤ ((periodNs / 8 : Nat) : Int) - 103) ∧
    timeoutOfPeriod 824 = 0

/-- Spec/42_host_protocol.md section 2 (D34): a request whose timeout does not fit is turned down by the host, and those
up to 525111 ns fit. -/
def Obligations.OversizeTimeoutIsTurnedDown : Prop :=
  ∀ (s : State) (samples periodNs : Nat), s.reads = 0 → 1 ≤ samples → samples ≤ 1024 →
    (525112 ≤ periodNs → hostPrepare samples periodNs s = .error .timeoutTooLarge) ∧
      (824 ≤ periodNs → periodNs < 525112 → s.cycle ≤ s.host.now → ∃ t, hostPrepare samples periodNs s = .ok t)

/-- Spec/42_host_protocol.md section 2: a valid `prepare` puts WR_TIMEOUT with `T` on the timeline at `now` and WR_COUNT
with the sample count at `now + 1`, and advances `now` by 2. That `pendingSamples` becomes the requested count is the
model's choice (log 13). Premises: `T` fits (D34), `now` is not over (log 13), the host is not blocked (log 23). -/
def Obligations.PrepareIssuesTwoWrites : Prop :=
  ∀ (s : State) (samples periodNs : Nat), 1 ≤ samples → samples ≤ 1024 → 824 ≤ periodNs → periodNs < 525112 →
    s.cycle ≤ s.host.now → s.reads = 0 →
      ∃ t, hostPrepare samples periodNs s = .ok t ∧
        t.host = { s.host with now := s.host.now + 2, pendingSamples := samples } ∧
        (∀ c, writesAt c t = writesAt c s ++
          if c = s.host.now then
            [⟨busAddress s.config.deviceChannel 0x01, BitVec.ofNat 16 (timeoutOfPeriod periodNs)⟩]
          else if c = s.host.now + 1 then [⟨busAddress s.config.deviceChannel 0x02, BitVec.ofNat 16 samples⟩]
          else []) ∧
        onlyWritesAdded s t

/-- R137. `trigger` puts WR_TRIGGER with payload 0x0001 on the timeline at `now` and advances `now` by 1, when `now` is
not over (log 13) and the host is not blocked on a read. -/
def Obligations.TriggerIssuesOneWrite : Prop :=
  ∀ s : State, s.cycle ≤ s.host.now → s.reads = 0 →
    ∃ t, hostTrigger s = .ok t ∧ t.host = { s.host with now := s.host.now + 1 } ∧
      (∀ c, writesAt c t = writesAt c s ++
        if c = s.host.now then [⟨busAddress s.config.deviceChannel 0x00, 0x0001⟩] else []) ∧
      onlyWritesAdded s t

/-- Spec/42_host_protocol.md section 2: a valid `sample` puts exactly three writes on the timeline, at `now`, `now + 1`
and `now + 2`, and advances `now` by 3. That `pendingSamples` becomes the requested count is the model's choice (log 13).
Premises: `T` fits (D34), `now` is not over (log 13), the host is not blocked (log 23). -/
def Obligations.SampleIssuesThreeWrites : Prop :=
  ∀ (s : State) (samples periodNs : Nat), 1 ≤ samples → samples ≤ 1024 → 824 ≤ periodNs → periodNs < 525112 →
    s.cycle ≤ s.host.now → s.reads = 0 →
      ∃ t, hostSample samples periodNs s = .ok t ∧
        t.host = { s.host with now := s.host.now + 3, pendingSamples := samples } ∧
        (∀ c, writesAt c t = writesAt c s ++
          if c = s.host.now then
            [⟨busAddress s.config.deviceChannel 0x01, BitVec.ofNat 16 (timeoutOfPeriod periodNs)⟩]
          else if c = s.host.now + 1 then [⟨busAddress s.config.deviceChannel 0x02, BitVec.ofNat 16 samples⟩]
          else if c = s.host.now + 2 then [⟨busAddress s.config.deviceChannel 0x00, 0x0001⟩]
          else []) ∧
        onlyWritesAdded s t

/-- Spec/70_reset_and_hazards.md section 4 (host timeline) and section 3: a host that has waited up to an idle cycle with
nothing else on the bus (log 22), after a burst too, and then calls `sample`, has its trigger land two cycles later and
StartAcquire in the third, with both registers written and no mark. -/
def Obligations.SampleStartsTheBurstInThreeCycles : Prop :=
  ∀ (s : State) (samples periodNs : Nat), 1 ≤ samples → samples ≤ 1024 → 824 ≤ periodNs → periodNs < 525112 →
    s.state = .idle → s.leftAlone → s.host.now ≤ s.cycle → s.config.addrMap = AddrMap.interfaceListing →
      ∃ waited issued t, hostWait (s.cycle - s.host.now) s = .ok waited ∧
        hostSample samples periodNs waited = .ok issued ∧ runSteps 3 issued = .next t ∧
        t.state = .startAcquire ∧ t.sc = 0 ∧ t.conversionTimeout.toNat = timeoutOfPeriod periodNs ∧
        t.sampleCount.toNat = samples ∧ t.wrT = true ∧ t.wrN = true ∧ t.fifo = s.fifo ∧
        t.refused = s.refused ∧ t.faults = s.faults ∧ t.cycle = s.cycle + 3 ∧ t.leftAlone

/-- Spec/42_host_protocol.md section 3 and spec/40_bus_transactions.md section 3 (D36; log 9, log 23): `transfer` issues
four reads for each pending sample and keeps the count; when the FIFO holds the words, they are appended in their order,
and after the last of them the count is 0. -/
def Obligations.TransferReadsFourWordsPerSample : Prop :=
  ∀ (s issued : State), s.reads = 0 →
    issued = { s with
      reads := s.host.pendingSamples * 4
      host := { s.host with transferLeft := s.host.pendingSamples * 4 } } →
      hostTransfer s = .ok issued ∧
        (s.host.pendingSamples * 4 ≤ s.fifo.length →
          runSteps (s.host.pendingSamples * 4) issued = .next { s with
            fifo := s.fifo.drop (s.host.pendingSamples * 4)
            host :=
              { now := s.host.now
                pendingSamples := 0
                transferLeft := 0
                buffer := s.host.buffer ++ s.fifo.take (s.host.pendingSamples * 4) } })

/-- R145. Code `i` of the buffer belongs to channel `i mod 8`, whatever the number of words. -/
def Obligations.DecodeAssignsChannelsRoundRobin : Prop :=
  ∀ (order : PairOrder) (words : List Word),
    (hostDecode order words).length = 2 * words.length ∧
      ∀ (i : Nat) (entry : Nat × Int), (hostDecode order words)[i]? = some entry →
        entry.1 = i % 8 ∧
          ∃ w, words[i / 2]? = some w ∧
            (unpackPair order w)[i % 2]?.map rawCode = some entry.2

/-- Spec/42_host_protocol.md section 5 and spec/20_memory.md section 2 (D21): when both sides agree on PAIR_ORDER, the
decoded words of a sample are its channels 0..7 with their codes in two's complement. -/
def Obligations.DecodeInvertsTheMultiplexer : Prop :=
  ∀ (order : PairOrder) (bank : Codes),
    hostDecode order (bankWords order bank) =
      (List.finRange 8).map (fun c => (c.val, (channelCode bank c).toInt))

/-- Spec/40_bus_transactions.md section 3, spec/42_host_protocol.md sections 1 and 3, spec/60_exceptions.md section 7 (D1,
D23; log 22, log 23): while a read is unanswered the host issues nothing and lets no time pass; otherwise it can let time
pass on its clock and issue a read, and nothing else changes. -/
def Obligations.BlockedHostHasNoMove : Prop :=
  (∀ (s : State) (samples periodNs cycles : Nat), s.reads ≠ 0 →
      hostPrepare samples periodNs s = .error .blockedOnRead ∧ hostTrigger s = .error .blockedOnRead ∧
        hostSample samples periodNs s = .error .blockedOnRead ∧ hostTransfer s = .error .blockedOnRead ∧
        hostRead s = .error .blockedOnRead ∧ hostWait cycles s = .error .blockedOnRead) ∧
    ∀ (s : State) (cycles : Nat), s.reads = 0 →
      hostWait cycles s = .ok { s with host := { s.host with now := s.host.now + cycles } } ∧
        hostRead s = .ok { s with reads := 1 }
end

