-- ==== Sys2Proof/Laws/Decode.lean ====
section
/-! SUPPORT. The decoder and the encoder: which ids lie in which row, the bytes of a payload, and the rows of the opcode
table, no two of which overlap. -/

namespace Sys2Proof

/-- R72: no two write rows of the opcode table match one word. -/
theorem writeRows_disjoint :
    writeRows.Pairwise (fun a b => a.pattern &&& b.mask &&& a.mask ≠ b.pattern &&& a.mask &&& b.mask) := by
  decide

/-- R62 under R8's map, by the id's value. -/
theorem regTarget_interfaceListing (id : RegisterId) :
    regTarget AddrMap.interfaceListing id =
      if id = 0x00 then .trigger else if id = 0x01 then .conversionTimeout
      else if id = 0x02 then .sampleCount else .reserved := by
  revert id; decide

/-- A payload's two bytes put together again are the payload. -/
theorem payload_of_bytes (data : Payload) :
    ((data.extractLsb' 8 8 ++ data.extractLsb' 0 8 : BitVec (8 + 8)) : Payload) = data := by
  ext i hi
  simp only [BitVec.getElem_append, BitVec.getElem_extractLsb']
  split
  · simp [BitVec.getLsbD_eq_getElem (show i < 16 from hi)]
  · rw [show 8 + (i - 8) = i by omega, BitVec.getLsbD_eq_getElem (show i < 16 from hi)]

theorem low_of_append (high low : Byte) : (high ++ low : BitVec (8 + 8)).extractLsb' 0 8 = low := by
  ext i hi
  simp only [BitVec.getElem_extractLsb', BitVec.getLsbD_append]
  rw [if_pos (by omega)]
  simp [BitVec.getLsbD_eq_getElem hi]

theorem high_of_append (high low : Byte) : (high ++ low : BitVec (8 + 8)).extractLsb' 8 8 = high := by
  ext i hi
  simp only [BitVec.getElem_extractLsb', BitVec.getLsbD_append]
  rw [if_neg (by omega), show 8 + i - 8 = i by omega, BitVec.getLsbD_eq_getElem hi]

theorem decode_writeBytes (id : RegisterId) (data : Payload) :
    decode (writeBytes id data) = .ok (decodeWrite AddrMap.interfaceListing id data) := by
  simp only [writeBytes, decode, payload_of_bytes]

/-- The ids of a well-formed reserved transaction decode to that transaction (R62, R72). -/
theorem decodeWrite_reservedRow (id : RegisterId) (data : Payload) (h : 3 ≤ id.toNat) :
    decodeWrite AddrMap.interfaceListing id data = reservedRow id data := by
  have h0 : id ≠ 0x00 := by rintro rfl; simp at h
  have h1 : id ≠ 0x01 := by rintro rfl; simp at h
  have h2 : id ≠ 0x02 := by rintro rfl; simp at h
  rw [decodeWrite, regTarget_interfaceListing, if_neg h0, if_neg h1, if_neg h2]

theorem idInRow_04 (id : RegisterId) : idInRow 0xFC 0x04 id = decide (0x04 ≤ id.toNat ∧ id.toNat < 0x08) := by
  revert id; decide
theorem idInRow_08 (id : RegisterId) : idInRow 0xF8 0x08 id = decide (0x08 ≤ id.toNat ∧ id.toNat < 0x10) := by
  revert id; decide
theorem idInRow_10 (id : RegisterId) : idInRow 0xF0 0x10 id = decide (0x10 ≤ id.toNat ∧ id.toNat < 0x20) := by
  revert id; decide
theorem idInRow_20 (id : RegisterId) : idInRow 0xE0 0x20 id = decide (0x20 ≤ id.toNat ∧ id.toNat < 0x40) := by
  revert id; decide
theorem idInRow_40 (id : RegisterId) : idInRow 0xC0 0x40 id = decide (0x40 ≤ id.toNat ∧ id.toNat < 0x80) := by
  revert id; decide
theorem idInRow_80 (id : RegisterId) : idInRow 0x80 0x80 id = decide (0x80 ≤ id.toNat) := by
  revert id; decide

/-- A reserved id's row is well formed and packs to the id's bytes. -/
theorem reservedRow_spec (id : RegisterId) (data : Payload) (h : 3 ≤ id.toNat) :
    (reservedRow id data).wellFormed = true ∧ encode (reservedRow id data) = writeBytes id data := by
  unfold reservedRow
  split
  · exact ⟨by simp only [Instr.wellFormed, idInRow_80]; simpa using by omega, rfl⟩
  split
  · exact ⟨by simp only [Instr.wellFormed, idInRow_40]; simpa using by omega, rfl⟩
  split
  · exact ⟨by simp only [Instr.wellFormed, idInRow_20]; simpa using by omega, rfl⟩
  split
  · exact ⟨by simp only [Instr.wellFormed, idInRow_10]; simpa using by omega, rfl⟩
  split
  · exact ⟨by simp only [Instr.wellFormed, idInRow_08]; simpa using by omega, rfl⟩
  split
  · exact ⟨by simp only [Instr.wellFormed, idInRow_04]; simpa using by omega, rfl⟩
  · have : id = 0x03 := by
      apply BitVec.eq_of_toNat_eq
      simp
      omega
    subst this
    exact ⟨rfl, rfl⟩

namespace Machine

/-- The fields of a bus address come apart as they were put together (R60). -/
theorem deviceChannel_busAddress (channel : Nat) (id : RegisterId) : deviceChannel (busAddress channel id) = channel := by
  have := id.isLt
  unfold deviceChannel busAddress
  omega

theorem registerId_busAddress (channel : Nat) (id : RegisterId) : registerId (busAddress channel id) = id := by
  apply BitVec.eq_of_toNat_eq
  have := id.isLt
  simp only [registerId, busAddress, BitVec.toNat_ofNat]
  omega

/-- A write on this block's channel is the transaction its id and payload decode to (R61, R62). -/
theorem decodeBus_own (c : Config) (id : RegisterId) (data : Payload) :
    decodeBus c ⟨busAddress c.deviceChannel id, data⟩ = some (decodeWrite c.addrMap id data) := by
  simp [decodeBus, deviceChannel_busAddress, registerId_busAddress]

/-- No write decodes to the read. -/
theorem decodeBus_ne_rdWord {c : Config} {w : BusWrite} {i : Instr} (h : decodeBus c w = some i) : i ≠ .rdWord := by
  unfold decodeBus at h
  split at h
  · cases h
    unfold decodeWrite reservedRow
    split <;> first | exact Instr.noConfusion | (repeat' split) <;> exact Instr.noConfusion
  · cases h

end Machine

end Sys2Proof
end

