-- ==== Sys2Proof/Laws/State.lean ====
section
/-! SUPPORT. One lemma for each field under each update of the state, so that no later proof unfolds a record update. -/

namespace Sys2Proof.Machine

variable (s : State)

@[simp] theorem raiseRefused_state (r : Refusal) : (raiseRefused r s).state = s.state := rfl
@[simp] theorem raiseRefused_conversionTimeout (r : Refusal) : (raiseRefused r s).conversionTimeout = s.conversionTimeout := rfl
@[simp] theorem raiseRefused_sampleCount (r : Refusal) : (raiseRefused r s).sampleCount = s.sampleCount := rfl
@[simp] theorem raiseRefused_sc (r : Refusal) : (raiseRefused r s).sc = s.sc := rfl
@[simp] theorem raiseRefused_mux (r : Refusal) : (raiseRefused r s).mux = s.mux := rfl
@[simp] theorem raiseRefused_tc (r : Refusal) : (raiseRefused r s).tc = s.tc := rfl
@[simp] theorem raiseRefused_bank (r : Refusal) : (raiseRefused r s).bank = s.bank := rfl
@[simp] theorem raiseRefused_fifo (r : Refusal) : (raiseRefused r s).fifo = s.fifo := rfl
@[simp] theorem raiseRefused_wrT (r : Refusal) : (raiseRefused r s).wrT = s.wrT := rfl
@[simp] theorem raiseRefused_wrN (r : Refusal) : (raiseRefused r s).wrN = s.wrN := rfl
@[simp] theorem raiseRefused_refused (r : Refusal) : (raiseRefused r s).refused = true := rfl
@[simp] theorem raiseRefused_refusals (r : Refusal) : (raiseRefused r s).refusals = s.refusals ++ [r] := rfl
@[simp] theorem raiseRefused_faults (r : Refusal) : (raiseRefused r s).faults = s.faults := rfl
@[simp] theorem raiseRefused_cycle (r : Refusal) : (raiseRefused r s).cycle = s.cycle := rfl
@[simp] theorem raiseRefused_ports (r : Refusal) : (raiseRefused r s).ports = s.ports := rfl
@[simp] theorem raiseRefused_env (r : Refusal) : (raiseRefused r s).env = s.env := rfl
@[simp] theorem raiseRefused_reads (r : Refusal) : (raiseRefused r s).reads = s.reads := rfl
@[simp] theorem raiseRefused_host (r : Refusal) : (raiseRefused r s).host = s.host := rfl
@[simp] theorem raiseRefused_config (r : Refusal) : (raiseRefused r s).config = s.config := rfl

@[simp] theorem raiseFault_state (f : Fault) : (raiseFault f s).state = s.state := rfl
@[simp] theorem raiseFault_conversionTimeout (f : Fault) : (raiseFault f s).conversionTimeout = s.conversionTimeout := rfl
@[simp] theorem raiseFault_sampleCount (f : Fault) : (raiseFault f s).sampleCount = s.sampleCount := rfl
@[simp] theorem raiseFault_sc (f : Fault) : (raiseFault f s).sc = s.sc := rfl
@[simp] theorem raiseFault_mux (f : Fault) : (raiseFault f s).mux = s.mux := rfl
@[simp] theorem raiseFault_tc (f : Fault) : (raiseFault f s).tc = s.tc := rfl
@[simp] theorem raiseFault_bank (f : Fault) : (raiseFault f s).bank = s.bank := rfl
@[simp] theorem raiseFault_fifo (f : Fault) : (raiseFault f s).fifo = s.fifo := rfl
@[simp] theorem raiseFault_wrT (f : Fault) : (raiseFault f s).wrT = s.wrT := rfl
@[simp] theorem raiseFault_wrN (f : Fault) : (raiseFault f s).wrN = s.wrN := rfl
@[simp] theorem raiseFault_refused (f : Fault) : (raiseFault f s).refused = s.refused := rfl
@[simp] theorem raiseFault_refusals (f : Fault) : (raiseFault f s).refusals = s.refusals := rfl
@[simp] theorem raiseFault_faults (f : Fault) : (raiseFault f s).faults = s.faults ++ [f] := rfl
@[simp] theorem raiseFault_cycle (f : Fault) : (raiseFault f s).cycle = s.cycle := rfl
@[simp] theorem raiseFault_ports (f : Fault) : (raiseFault f s).ports = s.ports := rfl
@[simp] theorem raiseFault_env (f : Fault) : (raiseFault f s).env = s.env := rfl
@[simp] theorem raiseFault_reads (f : Fault) : (raiseFault f s).reads = s.reads := rfl
@[simp] theorem raiseFault_host (f : Fault) : (raiseFault f s).host = s.host := rfl
@[simp] theorem raiseFault_config (f : Fault) : (raiseFault f s).config = s.config := rfl

@[simp] theorem storeTimeout_state (d : Payload) : (storeTimeout d s).state = s.state := rfl
@[simp] theorem storeTimeout_conversionTimeout (d : Payload) : (storeTimeout d s).conversionTimeout = d := rfl
@[simp] theorem storeTimeout_sampleCount (d : Payload) : (storeTimeout d s).sampleCount = s.sampleCount := rfl
@[simp] theorem storeTimeout_sc (d : Payload) : (storeTimeout d s).sc = s.sc := rfl
@[simp] theorem storeTimeout_mux (d : Payload) : (storeTimeout d s).mux = s.mux := rfl
@[simp] theorem storeTimeout_tc (d : Payload) : (storeTimeout d s).tc = s.tc := rfl
@[simp] theorem storeTimeout_bank (d : Payload) : (storeTimeout d s).bank = s.bank := rfl
@[simp] theorem storeTimeout_fifo (d : Payload) : (storeTimeout d s).fifo = s.fifo := rfl
@[simp] theorem storeTimeout_wrT (d : Payload) : (storeTimeout d s).wrT = true := rfl
@[simp] theorem storeTimeout_wrN (d : Payload) : (storeTimeout d s).wrN = s.wrN := rfl
@[simp] theorem storeTimeout_refused (d : Payload) : (storeTimeout d s).refused = s.refused := rfl
@[simp] theorem storeTimeout_refusals (d : Payload) : (storeTimeout d s).refusals = s.refusals := rfl
@[simp] theorem storeTimeout_faults (d : Payload) : (storeTimeout d s).faults = s.faults := rfl
@[simp] theorem storeTimeout_cycle (d : Payload) : (storeTimeout d s).cycle = s.cycle := rfl
@[simp] theorem storeTimeout_ports (d : Payload) : (storeTimeout d s).ports = s.ports := rfl
@[simp] theorem storeTimeout_env (d : Payload) : (storeTimeout d s).env = s.env := rfl
@[simp] theorem storeTimeout_reads (d : Payload) : (storeTimeout d s).reads = s.reads := rfl
@[simp] theorem storeTimeout_host (d : Payload) : (storeTimeout d s).host = s.host := rfl
@[simp] theorem storeTimeout_config (d : Payload) : (storeTimeout d s).config = s.config := rfl

@[simp] theorem storeCount_state (d : Payload) : (storeCount d s).state = s.state := rfl
@[simp] theorem storeCount_conversionTimeout (d : Payload) : (storeCount d s).conversionTimeout = s.conversionTimeout := rfl
@[simp] theorem storeCount_sampleCount (d : Payload) : (storeCount d s).sampleCount = d := rfl
@[simp] theorem storeCount_sc (d : Payload) : (storeCount d s).sc = s.sc := rfl
@[simp] theorem storeCount_mux (d : Payload) : (storeCount d s).mux = s.mux := rfl
@[simp] theorem storeCount_tc (d : Payload) : (storeCount d s).tc = s.tc := rfl
@[simp] theorem storeCount_bank (d : Payload) : (storeCount d s).bank = s.bank := rfl
@[simp] theorem storeCount_fifo (d : Payload) : (storeCount d s).fifo = s.fifo := rfl
@[simp] theorem storeCount_wrT (d : Payload) : (storeCount d s).wrT = s.wrT := rfl
@[simp] theorem storeCount_wrN (d : Payload) : (storeCount d s).wrN = true := rfl
@[simp] theorem storeCount_refused (d : Payload) : (storeCount d s).refused = s.refused := rfl
@[simp] theorem storeCount_refusals (d : Payload) : (storeCount d s).refusals = s.refusals := rfl
@[simp] theorem storeCount_faults (d : Payload) : (storeCount d s).faults = s.faults := rfl
@[simp] theorem storeCount_cycle (d : Payload) : (storeCount d s).cycle = s.cycle := rfl
@[simp] theorem storeCount_ports (d : Payload) : (storeCount d s).ports = s.ports := rfl
@[simp] theorem storeCount_env (d : Payload) : (storeCount d s).env = s.env := rfl
@[simp] theorem storeCount_reads (d : Payload) : (storeCount d s).reads = s.reads := rfl
@[simp] theorem storeCount_host (d : Payload) : (storeCount d s).host = s.host := rfl
@[simp] theorem storeCount_config (d : Payload) : (storeCount d s).config = s.config := rfl

@[simp] theorem deviceReset_state : (deviceReset s).state = .idle := rfl
@[simp] theorem deviceReset_conversionTimeout : (deviceReset s).conversionTimeout = Config.freeConversionTimeout s.cycle := rfl
@[simp] theorem deviceReset_sampleCount : (deviceReset s).sampleCount = Config.freeSampleCount s.cycle := rfl
@[simp] theorem deviceReset_sc : (deviceReset s).sc = Config.freeSc s.cycle := rfl
@[simp] theorem deviceReset_mux : (deviceReset s).mux = Config.freeMux s.cycle := rfl
@[simp] theorem deviceReset_tc : (deviceReset s).tc = Config.freeTc s.cycle := rfl
@[simp] theorem deviceReset_bank : (deviceReset s).bank = Config.freeBank s.cycle := rfl
@[simp] theorem deviceReset_fifo : (deviceReset s).fifo = [] := rfl
@[simp] theorem deviceReset_wrT : (deviceReset s).wrT = false := rfl
@[simp] theorem deviceReset_wrN : (deviceReset s).wrN = false := rfl
@[simp] theorem deviceReset_refused : (deviceReset s).refused = s.refused := rfl
@[simp] theorem deviceReset_refusals : (deviceReset s).refusals = s.refusals := rfl
@[simp] theorem deviceReset_faults : (deviceReset s).faults = s.faults := rfl
@[simp] theorem deviceReset_cycle : (deviceReset s).cycle = s.cycle := rfl
@[simp] theorem deviceReset_ports : (deviceReset s).ports = s.ports := rfl
@[simp] theorem deviceReset_env : (deviceReset s).env = s.env := rfl
@[simp] theorem deviceReset_reads : (deviceReset s).reads = s.reads := rfl
@[simp] theorem deviceReset_host : (deviceReset s).host = s.host := rfl
@[simp] theorem deviceReset_config : (deviceReset s).config = s.config := rfl

@[simp] theorem endCycle_state : (endCycle s).state = s.state := rfl
@[simp] theorem endCycle_conversionTimeout : (endCycle s).conversionTimeout = s.conversionTimeout := rfl
@[simp] theorem endCycle_sampleCount : (endCycle s).sampleCount = s.sampleCount := rfl
@[simp] theorem endCycle_sc : (endCycle s).sc = s.sc := rfl
@[simp] theorem endCycle_mux : (endCycle s).mux = s.mux := rfl
@[simp] theorem endCycle_tc : (endCycle s).tc = s.tc := rfl
@[simp] theorem endCycle_bank : (endCycle s).bank = s.bank := rfl
@[simp] theorem endCycle_fifo : (endCycle s).fifo = s.fifo := rfl
@[simp] theorem endCycle_wrT : (endCycle s).wrT = s.wrT := rfl
@[simp] theorem endCycle_wrN : (endCycle s).wrN = s.wrN := rfl
@[simp] theorem endCycle_refused : (endCycle s).refused = s.refused := rfl
@[simp] theorem endCycle_refusals : (endCycle s).refusals = s.refusals := rfl
@[simp] theorem endCycle_faults : (endCycle s).faults = s.faults := rfl
@[simp] theorem endCycle_cycle : (endCycle s).cycle = s.cycle + 1 := rfl
@[simp] theorem endCycle_ports : (endCycle s).ports = (nextEnv s).toPorts (s.cycle + 1) := rfl
@[simp] theorem endCycle_env : (endCycle s).env = s.env.tail := rfl
@[simp] theorem endCycle_reads : (endCycle s).reads = s.reads + (nextEnv s).reads := rfl
@[simp] theorem endCycle_host : (endCycle s).host = s.host := rfl
@[simp] theorem endCycle_config : (endCycle s).config = s.config := rfl

@[simp] theorem popWord_state (w : Word) (ws : List Word) : (popWord w ws s).state = s.state := rfl
@[simp] theorem popWord_conversionTimeout (w : Word) (ws : List Word) : (popWord w ws s).conversionTimeout = s.conversionTimeout := rfl
@[simp] theorem popWord_sampleCount (w : Word) (ws : List Word) : (popWord w ws s).sampleCount = s.sampleCount := rfl
@[simp] theorem popWord_sc (w : Word) (ws : List Word) : (popWord w ws s).sc = s.sc := rfl
@[simp] theorem popWord_mux (w : Word) (ws : List Word) : (popWord w ws s).mux = s.mux := rfl
@[simp] theorem popWord_tc (w : Word) (ws : List Word) : (popWord w ws s).tc = s.tc := rfl
@[simp] theorem popWord_bank (w : Word) (ws : List Word) : (popWord w ws s).bank = s.bank := rfl
@[simp] theorem popWord_fifo (w : Word) (ws : List Word) : (popWord w ws s).fifo = ws := rfl
@[simp] theorem popWord_wrT (w : Word) (ws : List Word) : (popWord w ws s).wrT = s.wrT := rfl
@[simp] theorem popWord_wrN (w : Word) (ws : List Word) : (popWord w ws s).wrN = s.wrN := rfl
@[simp] theorem popWord_refused (w : Word) (ws : List Word) : (popWord w ws s).refused = s.refused := rfl
@[simp] theorem popWord_refusals (w : Word) (ws : List Word) : (popWord w ws s).refusals = s.refusals := rfl
@[simp] theorem popWord_faults (w : Word) (ws : List Word) : (popWord w ws s).faults = s.faults := rfl
@[simp] theorem popWord_cycle (w : Word) (ws : List Word) : (popWord w ws s).cycle = s.cycle := rfl
@[simp] theorem popWord_ports (w : Word) (ws : List Word) : (popWord w ws s).ports = s.ports := rfl
@[simp] theorem popWord_env (w : Word) (ws : List Word) : (popWord w ws s).env = s.env := rfl
@[simp] theorem popWord_reads (w : Word) (ws : List Word) : (popWord w ws s).reads = s.reads := rfl
@[simp] theorem popWord_host (w : Word) (ws : List Word) : (popWord w ws s).host = s.host.receive w := rfl
@[simp] theorem popWord_config (w : Word) (ws : List Word) : (popWord w ws s).config = s.config := rfl

@[simp] theorem receive_now (w : Word) (h : HostSide) : (h.receive w).now = h.now := rfl
@[simp] theorem receive_pendingSamples (w : Word) (h : HostSide) :
    (h.receive w).pendingSamples = if h.transferLeft = 1 then 0 else h.pendingSamples := rfl
@[simp] theorem receive_transferLeft (w : Word) (h : HostSide) : (h.receive w).transferLeft = h.transferLeft - 1 := rfl
@[simp] theorem receive_buffer (w : Word) (h : HostSide) : (h.receive w).buffer = h.buffer ++ [w] := rfl

@[simp] theorem keepRead_state : (keepRead s).state = s.state := rfl
@[simp] theorem keepRead_conversionTimeout : (keepRead s).conversionTimeout = s.conversionTimeout := rfl
@[simp] theorem keepRead_sampleCount : (keepRead s).sampleCount = s.sampleCount := rfl
@[simp] theorem keepRead_sc : (keepRead s).sc = s.sc := rfl
@[simp] theorem keepRead_mux : (keepRead s).mux = s.mux := rfl
@[simp] theorem keepRead_tc : (keepRead s).tc = s.tc := rfl
@[simp] theorem keepRead_bank : (keepRead s).bank = s.bank := rfl
@[simp] theorem keepRead_fifo : (keepRead s).fifo = s.fifo := rfl
@[simp] theorem keepRead_wrT : (keepRead s).wrT = s.wrT := rfl
@[simp] theorem keepRead_wrN : (keepRead s).wrN = s.wrN := rfl
@[simp] theorem keepRead_refused : (keepRead s).refused = s.refused := rfl
@[simp] theorem keepRead_refusals : (keepRead s).refusals = s.refusals := rfl
@[simp] theorem keepRead_faults : (keepRead s).faults = s.faults := rfl
@[simp] theorem keepRead_cycle : (keepRead s).cycle = s.cycle := rfl
@[simp] theorem keepRead_ports : (keepRead s).ports = s.ports := rfl
@[simp] theorem keepRead_env : (keepRead s).env = s.env := rfl
@[simp] theorem keepRead_reads : (keepRead s).reads = s.reads + 1 := rfl
@[simp] theorem keepRead_host : (keepRead s).host = s.host := rfl
@[simp] theorem keepRead_config : (keepRead s).config = s.config := rfl

@[simp] theorem takeRead_state : (takeRead s).state = s.state := rfl
@[simp] theorem takeRead_conversionTimeout : (takeRead s).conversionTimeout = s.conversionTimeout := rfl
@[simp] theorem takeRead_sampleCount : (takeRead s).sampleCount = s.sampleCount := rfl
@[simp] theorem takeRead_sc : (takeRead s).sc = s.sc := rfl
@[simp] theorem takeRead_mux : (takeRead s).mux = s.mux := rfl
@[simp] theorem takeRead_tc : (takeRead s).tc = s.tc := rfl
@[simp] theorem takeRead_bank : (takeRead s).bank = s.bank := rfl
@[simp] theorem takeRead_fifo : (takeRead s).fifo = s.fifo := rfl
@[simp] theorem takeRead_wrT : (takeRead s).wrT = s.wrT := rfl
@[simp] theorem takeRead_wrN : (takeRead s).wrN = s.wrN := rfl
@[simp] theorem takeRead_refused : (takeRead s).refused = s.refused := rfl
@[simp] theorem takeRead_refusals : (takeRead s).refusals = s.refusals := rfl
@[simp] theorem takeRead_faults : (takeRead s).faults = s.faults := rfl
@[simp] theorem takeRead_cycle : (takeRead s).cycle = s.cycle := rfl
@[simp] theorem takeRead_ports : (takeRead s).ports = s.ports := rfl
@[simp] theorem takeRead_env : (takeRead s).env = s.env := rfl
@[simp] theorem takeRead_reads : (takeRead s).reads = s.reads - 1 := rfl
@[simp] theorem takeRead_host : (takeRead s).host = s.host := rfl
@[simp] theorem takeRead_config : (takeRead s).config = s.config := rfl

@[simp] theorem advanceMux_state : (advanceMux s).state = s.state := rfl
@[simp] theorem advanceMux_conversionTimeout : (advanceMux s).conversionTimeout = s.conversionTimeout := rfl
@[simp] theorem advanceMux_sampleCount : (advanceMux s).sampleCount = s.sampleCount := rfl
@[simp] theorem advanceMux_sc : (advanceMux s).sc = s.sc := rfl
@[simp] theorem advanceMux_mux : (advanceMux s).mux = s.mux + 1 := rfl
@[simp] theorem advanceMux_tc : (advanceMux s).tc = s.tc := rfl
@[simp] theorem advanceMux_bank : (advanceMux s).bank = s.bank := rfl
@[simp] theorem advanceMux_fifo : (advanceMux s).fifo = s.fifo := rfl
@[simp] theorem advanceMux_wrT : (advanceMux s).wrT = s.wrT := rfl
@[simp] theorem advanceMux_wrN : (advanceMux s).wrN = s.wrN := rfl
@[simp] theorem advanceMux_refused : (advanceMux s).refused = s.refused := rfl
@[simp] theorem advanceMux_refusals : (advanceMux s).refusals = s.refusals := rfl
@[simp] theorem advanceMux_faults : (advanceMux s).faults = s.faults := rfl
@[simp] theorem advanceMux_cycle : (advanceMux s).cycle = s.cycle := rfl
@[simp] theorem advanceMux_ports : (advanceMux s).ports = s.ports := rfl
@[simp] theorem advanceMux_env : (advanceMux s).env = s.env := rfl
@[simp] theorem advanceMux_reads : (advanceMux s).reads = s.reads := rfl
@[simp] theorem advanceMux_host : (advanceMux s).host = s.host := rfl
@[simp] theorem advanceMux_config : (advanceMux s).config = s.config := rfl

@[simp] theorem pushWord_state (w : Word) : (pushWord w s).state = s.state := by
  unfold pushWord; split <;> rfl
@[simp] theorem pushWord_conversionTimeout (w : Word) : (pushWord w s).conversionTimeout = s.conversionTimeout := by
  unfold pushWord; split <;> rfl
@[simp] theorem pushWord_sampleCount (w : Word) : (pushWord w s).sampleCount = s.sampleCount := by
  unfold pushWord; split <;> rfl
@[simp] theorem pushWord_sc (w : Word) : (pushWord w s).sc = s.sc := by
  unfold pushWord; split <;> rfl
@[simp] theorem pushWord_mux (w : Word) : (pushWord w s).mux = s.mux := by
  unfold pushWord; split <;> rfl
@[simp] theorem pushWord_tc (w : Word) : (pushWord w s).tc = s.tc := by
  unfold pushWord; split <;> rfl
@[simp] theorem pushWord_bank (w : Word) : (pushWord w s).bank = s.bank := by
  unfold pushWord; split <;> rfl
@[simp] theorem pushWord_wrT (w : Word) : (pushWord w s).wrT = s.wrT := by
  unfold pushWord; split <;> rfl
@[simp] theorem pushWord_wrN (w : Word) : (pushWord w s).wrN = s.wrN := by
  unfold pushWord; split <;> rfl
@[simp] theorem pushWord_refused (w : Word) : (pushWord w s).refused = s.refused := by
  unfold pushWord; split <;> rfl
@[simp] theorem pushWord_refusals (w : Word) : (pushWord w s).refusals = s.refusals := by
  unfold pushWord; split <;> rfl
@[simp] theorem pushWord_cycle (w : Word) : (pushWord w s).cycle = s.cycle := by
  unfold pushWord; split <;> rfl
@[simp] theorem pushWord_ports (w : Word) : (pushWord w s).ports = s.ports := by
  unfold pushWord; split <;> rfl
@[simp] theorem pushWord_env (w : Word) : (pushWord w s).env = s.env := by
  unfold pushWord; split <;> rfl
@[simp] theorem pushWord_reads (w : Word) : (pushWord w s).reads = s.reads := by
  unfold pushWord; split <;> rfl
@[simp] theorem pushWord_host (w : Word) : (pushWord w s).host = s.host := by
  unfold pushWord; split <;> rfl
@[simp] theorem pushWord_config (w : Word) : (pushWord w s).config = s.config := by
  unfold pushWord; split <;> rfl

@[simp] theorem markSecondHost_state : (markSecondHost s).state = s.state := by
  unfold markSecondHost; split <;> rfl
@[simp] theorem markSecondHost_conversionTimeout : (markSecondHost s).conversionTimeout = s.conversionTimeout := by
  unfold markSecondHost; split <;> rfl
@[simp] theorem markSecondHost_sampleCount : (markSecondHost s).sampleCount = s.sampleCount := by
  unfold markSecondHost; split <;> rfl
@[simp] theorem markSecondHost_sc : (markSecondHost s).sc = s.sc := by
  unfold markSecondHost; split <;> rfl
@[simp] theorem markSecondHost_mux : (markSecondHost s).mux = s.mux := by
  unfold markSecondHost; split <;> rfl
@[simp] theorem markSecondHost_tc : (markSecondHost s).tc = s.tc := by
  unfold markSecondHost; split <;> rfl
@[simp] theorem markSecondHost_bank : (markSecondHost s).bank = s.bank := by
  unfold markSecondHost; split <;> rfl
@[simp] theorem markSecondHost_fifo : (markSecondHost s).fifo = s.fifo := by
  unfold markSecondHost; split <;> rfl
@[simp] theorem markSecondHost_wrT : (markSecondHost s).wrT = s.wrT := by
  unfold markSecondHost; split <;> rfl
@[simp] theorem markSecondHost_wrN : (markSecondHost s).wrN = s.wrN := by
  unfold markSecondHost; split <;> rfl
@[simp] theorem markSecondHost_faults : (markSecondHost s).faults = s.faults := by
  unfold markSecondHost; split <;> rfl
@[simp] theorem markSecondHost_cycle : (markSecondHost s).cycle = s.cycle := by
  unfold markSecondHost; split <;> rfl
@[simp] theorem markSecondHost_ports : (markSecondHost s).ports = s.ports := by
  unfold markSecondHost; split <;> rfl
@[simp] theorem markSecondHost_env : (markSecondHost s).env = s.env := by
  unfold markSecondHost; split <;> rfl
@[simp] theorem markSecondHost_reads : (markSecondHost s).reads = s.reads := by
  unfold markSecondHost; split <;> rfl
@[simp] theorem markSecondHost_host : (markSecondHost s).host = s.host := by
  unfold markSecondHost; split <;> rfl
@[simp] theorem markSecondHost_config : (markSecondHost s).config = s.config := by
  unfold markSecondHost; split <;> rfl

end Sys2Proof.Machine
end

