-- ==== Sys2Proof/Laws/Ops.lean ====
section
/-! SUPPORT. What each shared operation can do, said once: the push, the admission checks, one case of the FSM's step
for each state, and the fields that no FSM step and no clock edge touches. -/

namespace Sys2Proof.Machine

variable (s : State)

theorem pushWord_room (w : Word) (h : s.fifo.length < s.config.fifoDepth) :
    pushWord w s = { s with fifo := s.fifo ++ [w] } := by
  simp [pushWord, fifoHasRoom, h]

theorem pushWord_full (w : Word) (h : s.config.fifoDepth ≤ s.fifo.length) :
    pushWord w s = raiseFault (.fifoOverflow s.cycle s.sc s.mux) s := by
  simp [pushWord, fifoHasRoom, Nat.not_lt.mpr h]

/-- A push either lengthens the FIFO by the word or records the fault. -/
theorem pushWord_cases (w : Word) :
    (s.fifo.length < s.config.fifoDepth ∧ pushWord w s = { s with fifo := s.fifo ++ [w] }) ∨
      (s.config.fifoDepth ≤ s.fifo.length ∧ pushWord w s = raiseFault (.fifoOverflow s.cycle s.sc s.mux) s) := by
  rcases Nat.lt_or_ge s.fifo.length s.config.fifoDepth with h | h
  · exact .inl ⟨h, pushWord_room s w h⟩
  · exact .inr ⟨h, pushWord_full s w h⟩

theorem markSecondHost_of_not (h : s.ports.secondHost = false) : markSecondHost s = s := by
  simp [markSecondHost, h]

theorem anotherWriteLands_secondHost (h : anotherWriteLands s = false) : s.ports.secondHost = false := by
  simp [anotherWriteLands] at h
  exact h.2

theorem commonRefusal_none_iff :
    commonRefusal s = none ↔ s.ports.rst = false ∧ anotherWriteLands s = false := by
  unfold commonRefusal
  cases s.ports.rst <;> cases anotherWriteLands s <;> simp

theorem configRefusal_none_iff :
    configRefusal s = none ↔
      s.ports.rst = false ∧ anotherWriteLands s = false ∧ s.state = .idle := by
  rw [← and_assoc, ← commonRefusal_none_iff]
  unfold configRefusal
  split
  · simp_all
  · split <;> simp_all

theorem sampleCountInRange_iff :
    sampleCountInRange s = true ↔ 1 ≤ s.sampleCount.toNat ∧ s.sampleCount.toNat ≤ maxSampleCount := by
  simp [sampleCountInRange]

/-- R80, R81: a trigger is admitted exactly when every check holds. -/
theorem triggerRefusal_none_iff (data : Payload) :
    triggerRefusal data s = none ↔
      s.ports.rst = false ∧ anotherWriteLands s = false ∧ data = 0x0001 ∧ s.state = .idle ∧ s.wrT = true ∧
        s.wrN = true ∧ 1 ≤ s.sampleCount.toNat ∧ s.sampleCount.toNat ≤ maxSampleCount := by
  rw [← sampleCountInRange_iff, ← and_assoc, ← commonRefusal_none_iff]
  unfold triggerRefusal
  cases commonRefusal s with
  | some r => simp
  | none =>
    by_cases hd : data = 0x0001 <;> by_cases hs : s.state = .idle <;> cases s.wrT <;> cases s.wrN <;>
      cases sampleCountInRange s <;> simp_all

theorem fsmStep_idle (trig : Bool) (h : s.state = .idle) : fsmStep trig s = fsmIdle trig s := by
  simp [fsmStep, h]

theorem fsmStep_startAcquire (trig : Bool) (h : s.state = .startAcquire) :
    fsmStep trig s = { s with state := .acquiring } := by
  simp [fsmStep, h, fsmStartAcquire]

theorem fsmStep_acquiring (trig : Bool) (h : s.state = .acquiring) : fsmStep trig s = fsmAcquiring s := by
  simp [fsmStep, h]

theorem fsmStep_reading (trig : Bool) (h : s.state = .reading) : fsmStep trig s = fsmReading s := by
  simp [fsmStep, h]

theorem fsmStep_conversionWait (trig : Bool) (h : s.state = .conversionWait) :
    fsmStep trig s = fsmConversionWait s := by
  simp [fsmStep, h]

/-- The three ways out of the last Reading cycle of a sample (R108). -/
theorem lastWordBranch_cases :
    (lastSample s = true ∧ lastWordBranch s = { s with state := .idle }) ∨
      (lastSample s = false ∧ s.conversionTimeout = 0 ∧
        lastWordBranch s = { s with sc := s.sc + 1, state := .startAcquire }) ∨
      (lastSample s = false ∧ s.conversionTimeout ≠ 0 ∧
        lastWordBranch s = { s with sc := s.sc + 1, tc := s.conversionTimeout, state := .conversionWait }) := by
  unfold lastWordBranch
  cases lastSample s
  · by_cases hT : s.conversionTimeout = 0
    · exact .inr (.inl ⟨rfl, hT, by simp [hT]⟩)
    · exact .inr (.inr ⟨rfl, hT, by rw [if_neg Bool.false_ne_true, if_neg hT]⟩)
  · exact .inl ⟨rfl, by simp⟩

/-- Everything one FSM step can do, by the state it starts in and the transition it takes. -/
inductive FsmMove (trig : Bool) (s : State) : State → Prop
  | idleTrigger : s.state = .idle → trig = true → FsmMove trig s { s with sc := 0, state := .startAcquire }
  | idleStay : s.state = .idle → trig = false → FsmMove trig s s
  | start : s.state = .startAcquire → FsmMove trig s { s with state := .acquiring }
  | capture : s.state = .acquiring → s.ports.adcDone = true →
      FsmMove trig s { s with bank := s.ports.adcCode, mux := 0, state := .reading }
  | acquire : s.state = .acquiring → s.ports.adcDone = false → FsmMove trig s s
  | readNext : s.state = .reading → s.mux ≠ 3 →
      FsmMove trig s (advanceMux (pushWord (muxWord s.config.pairOrder s.bank s.mux) s))
  | readLast : s.state = .reading → s.mux = 3 →
      FsmMove trig s (lastWordBranch (advanceMux (pushWord (muxWord s.config.pairOrder s.bank s.mux) s)))
  | waitZeroEnd : s.state = .conversionWait → s.config.waitOffset = .zero → s.tc - 1 = 0 →
      FsmMove trig s { s with tc := s.tc - 1, state := .startAcquire }
  | waitZero : s.state = .conversionWait → s.config.waitOffset = .zero → s.tc - 1 ≠ 0 →
      FsmMove trig s { s with tc := s.tc - 1 }
  | waitOneEnd : s.state = .conversionWait → s.config.waitOffset = .one → s.tc = 0 →
      FsmMove trig s { s with state := .startAcquire }
  | waitOne : s.state = .conversionWait → s.config.waitOffset = .one → s.tc ≠ 0 →
      FsmMove trig s { s with tc := s.tc - 1 }

/-- The inversion of the FSM's step: it takes one of the moves. -/
theorem fsmStep_moves (trig : Bool) : FsmMove trig s (fsmStep trig s) := by
  cases h : s.state with
  | idle =>
    rw [fsmStep_idle s trig h]
    cases trig
    · exact .idleStay h rfl
    · exact .idleTrigger h rfl
  | startAcquire =>
    rw [fsmStep_startAcquire s trig h]
    exact .start h
  | acquiring =>
    rw [fsmStep_acquiring s trig h, fsmAcquiring]
    cases hd : s.ports.adcDone
    · exact .acquire h hd
    · exact .capture h hd
  | reading =>
    rw [fsmStep_reading s trig h]
    unfold fsmReading lastWord
    by_cases hm : s.mux = 3
    · simpa only [beq_iff_eq, if_pos hm] using FsmMove.readLast (trig := trig) h hm
    · simpa only [beq_iff_eq, if_neg hm] using FsmMove.readNext (trig := trig) h hm
  | conversionWait =>
    rw [fsmStep_conversionWait s trig h, fsmConversionWait]
    cases hw : s.config.waitOffset with
    | zero =>
      by_cases ht : s.tc - 1 = 0
      · simpa only [ht, if_true] using FsmMove.waitZeroEnd (trig := trig) h hw ht
      · simpa only [ht, if_false] using FsmMove.waitZero (trig := trig) h hw ht
    | one =>
      by_cases ht : s.tc = 0
      · simpa only [ht, if_true] using FsmMove.waitOneEnd (trig := trig) h hw ht
      · simpa only [ht, if_false] using FsmMove.waitOne (trig := trig) h hw ht

@[simp] theorem lastWordBranch_conversionTimeout : (lastWordBranch s).conversionTimeout = s.conversionTimeout := by
  rcases lastWordBranch_cases s with h | h | h <;> simp [h]
@[simp] theorem lastWordBranch_sampleCount : (lastWordBranch s).sampleCount = s.sampleCount := by
  rcases lastWordBranch_cases s with h | h | h <;> simp [h]
@[simp] theorem lastWordBranch_wrT : (lastWordBranch s).wrT = s.wrT := by
  rcases lastWordBranch_cases s with h | h | h <;> simp [h]
@[simp] theorem lastWordBranch_wrN : (lastWordBranch s).wrN = s.wrN := by
  rcases lastWordBranch_cases s with h | h | h <;> simp [h]
@[simp] theorem lastWordBranch_refused : (lastWordBranch s).refused = s.refused := by
  rcases lastWordBranch_cases s with h | h | h <;> simp [h]
@[simp] theorem lastWordBranch_refusals : (lastWordBranch s).refusals = s.refusals := by
  rcases lastWordBranch_cases s with h | h | h <;> simp [h]
@[simp] theorem lastWordBranch_cycle : (lastWordBranch s).cycle = s.cycle := by
  rcases lastWordBranch_cases s with h | h | h <;> simp [h]
@[simp] theorem lastWordBranch_ports : (lastWordBranch s).ports = s.ports := by
  rcases lastWordBranch_cases s with h | h | h <;> simp [h]
@[simp] theorem lastWordBranch_env : (lastWordBranch s).env = s.env := by
  rcases lastWordBranch_cases s with h | h | h <;> simp [h]
@[simp] theorem lastWordBranch_reads : (lastWordBranch s).reads = s.reads := by
  rcases lastWordBranch_cases s with h | h | h <;> simp [h]
@[simp] theorem lastWordBranch_host : (lastWordBranch s).host = s.host := by
  rcases lastWordBranch_cases s with h | h | h <;> simp [h]
@[simp] theorem lastWordBranch_config : (lastWordBranch s).config = s.config := by
  rcases lastWordBranch_cases s with h | h | h <;> simp [h]
@[simp] theorem lastWordBranch_mux : (lastWordBranch s).mux = s.mux := by
  rcases lastWordBranch_cases s with h | h | h <;> simp [h]
@[simp] theorem lastWordBranch_bank : (lastWordBranch s).bank = s.bank := by
  rcases lastWordBranch_cases s with h | h | h <;> simp [h]
@[simp] theorem lastWordBranch_fifo : (lastWordBranch s).fifo = s.fifo := by
  rcases lastWordBranch_cases s with h | h | h <;> simp [h]
@[simp] theorem lastWordBranch_faults : (lastWordBranch s).faults = s.faults := by
  rcases lastWordBranch_cases s with h | h | h <;> simp [h]

section

variable {s t : State} {trig : Bool}

theorem FsmMove.conversionTimeout_eq (h : FsmMove trig s t) : t.conversionTimeout = s.conversionTimeout := by
  cases h <;> simp
theorem FsmMove.sampleCount_eq (h : FsmMove trig s t) : t.sampleCount = s.sampleCount := by
  cases h <;> simp
theorem FsmMove.wrT_eq (h : FsmMove trig s t) : t.wrT = s.wrT := by
  cases h <;> simp
theorem FsmMove.wrN_eq (h : FsmMove trig s t) : t.wrN = s.wrN := by
  cases h <;> simp
theorem FsmMove.refused_eq (h : FsmMove trig s t) : t.refused = s.refused := by
  cases h <;> simp
theorem FsmMove.refusals_eq (h : FsmMove trig s t) : t.refusals = s.refusals := by
  cases h <;> simp
theorem FsmMove.cycle_eq (h : FsmMove trig s t) : t.cycle = s.cycle := by
  cases h <;> simp
theorem FsmMove.ports_eq (h : FsmMove trig s t) : t.ports = s.ports := by
  cases h <;> simp
theorem FsmMove.env_eq (h : FsmMove trig s t) : t.env = s.env := by
  cases h <;> simp
theorem FsmMove.reads_eq (h : FsmMove trig s t) : t.reads = s.reads := by
  cases h <;> simp
theorem FsmMove.host_eq (h : FsmMove trig s t) : t.host = s.host := by
  cases h <;> simp
theorem FsmMove.config_eq (h : FsmMove trig s t) : t.config = s.config := by
  cases h <;> simp

end

@[simp] theorem fsmStep_conversionTimeout (trig : Bool) : (fsmStep trig s).conversionTimeout = s.conversionTimeout :=
  (fsmStep_moves s trig).conversionTimeout_eq
@[simp] theorem fsmStep_sampleCount (trig : Bool) : (fsmStep trig s).sampleCount = s.sampleCount :=
  (fsmStep_moves s trig).sampleCount_eq
@[simp] theorem fsmStep_wrT (trig : Bool) : (fsmStep trig s).wrT = s.wrT :=
  (fsmStep_moves s trig).wrT_eq
@[simp] theorem fsmStep_wrN (trig : Bool) : (fsmStep trig s).wrN = s.wrN :=
  (fsmStep_moves s trig).wrN_eq
@[simp] theorem fsmStep_refused (trig : Bool) : (fsmStep trig s).refused = s.refused :=
  (fsmStep_moves s trig).refused_eq
@[simp] theorem fsmStep_refusals (trig : Bool) : (fsmStep trig s).refusals = s.refusals :=
  (fsmStep_moves s trig).refusals_eq
@[simp] theorem fsmStep_cycle (trig : Bool) : (fsmStep trig s).cycle = s.cycle :=
  (fsmStep_moves s trig).cycle_eq
@[simp] theorem fsmStep_ports (trig : Bool) : (fsmStep trig s).ports = s.ports :=
  (fsmStep_moves s trig).ports_eq
@[simp] theorem fsmStep_env (trig : Bool) : (fsmStep trig s).env = s.env :=
  (fsmStep_moves s trig).env_eq
@[simp] theorem fsmStep_reads (trig : Bool) : (fsmStep trig s).reads = s.reads :=
  (fsmStep_moves s trig).reads_eq
@[simp] theorem fsmStep_host (trig : Bool) : (fsmStep trig s).host = s.host :=
  (fsmStep_moves s trig).host_eq
@[simp] theorem fsmStep_config (trig : Bool) : (fsmStep trig s).config = s.config :=
  (fsmStep_moves s trig).config_eq

@[simp] theorem clockEdge_refused (trig : Bool) : (clockEdge trig s).refused = s.refused := by
  unfold clockEdge; split <;> simp
@[simp] theorem clockEdge_refusals (trig : Bool) : (clockEdge trig s).refusals = s.refusals := by
  unfold clockEdge; split <;> simp
@[simp] theorem clockEdge_cycle (trig : Bool) : (clockEdge trig s).cycle = s.cycle := by
  unfold clockEdge; split <;> simp
@[simp] theorem clockEdge_ports (trig : Bool) : (clockEdge trig s).ports = s.ports := by
  unfold clockEdge; split <;> simp
@[simp] theorem clockEdge_env (trig : Bool) : (clockEdge trig s).env = s.env := by
  unfold clockEdge; split <;> simp
@[simp] theorem clockEdge_reads (trig : Bool) : (clockEdge trig s).reads = s.reads := by
  unfold clockEdge; split <;> simp
@[simp] theorem clockEdge_host (trig : Bool) : (clockEdge trig s).host = s.host := by
  unfold clockEdge; split <;> simp
@[simp] theorem clockEdge_config (trig : Bool) : (clockEdge trig s).config = s.config := by
  unfold clockEdge; split <;> simp

/-- `s` with the fields that the FSM's step neither reads nor writes set anew: the refusal marks, the reads and the
writes on the bus. -/
def withOutside (refused : Bool) (refusals : List Refusal) (reads : Nat) (writes : List BusWrite) (s : State) : State :=
  { s with refused := refused, refusals := refusals, reads := reads, ports := { s.ports with writes := writes } }

section

variable (refused : Bool) (refusals : List Refusal) (reads : Nat) (writes : List BusWrite) (s : State)

theorem pushWord_withOutside (w : Word) :
    pushWord w (withOutside refused refusals reads writes s) =
      withOutside refused refusals reads writes (pushWord w s) := by
  simp only [pushWord, show fifoHasRoom (withOutside refused refusals reads writes s) = fifoHasRoom s from rfl]
  split <;> rfl

theorem lastWordBranch_withOutside :
    lastWordBranch (withOutside refused refusals reads writes s) =
      withOutside refused refusals reads writes (lastWordBranch s) := by
  simp only [lastWordBranch, show lastSample (withOutside refused refusals reads writes s) = lastSample s from rfl,
    show (withOutside refused refusals reads writes s).conversionTimeout = s.conversionTimeout from rfl]
  split
  · rfl
  · split <;> rfl

theorem advanceMux_withOutside :
    advanceMux (withOutside refused refusals reads writes s) =
      withOutside refused refusals reads writes (advanceMux s) := rfl

/-- The FSM's step neither reads nor writes them. -/
theorem fsmStep_withOutside (trig : Bool) :
    fsmStep trig (withOutside refused refusals reads writes s) =
      withOutside refused refusals reads writes (fsmStep trig s) := by
  simp only [fsmStep, show (withOutside refused refusals reads writes s).state = s.state from rfl]
  split
  · cases trig <;> rfl
  · rfl
  · simp only [fsmAcquiring, show (withOutside refused refusals reads writes s).ports.adcDone = s.ports.adcDone from rfl]
    split <;> rfl
  · simp only [fsmReading, show lastWord (withOutside refused refusals reads writes s) = lastWord s from rfl,
      pushWord_withOutside, advanceMux_withOutside, lastWordBranch_withOutside]
    split <;> rfl
  · simp only [fsmConversionWait,
      show (withOutside refused refusals reads writes s).config = s.config from rfl,
      show (withOutside refused refusals reads writes s).tc = s.tc from rfl]
    split <;> split <;> rfl

/-- Nor does a cycle's clock edge when there is no reset. -/
theorem clockEdge_withOutside (trig : Bool) (h : s.ports.rst = false) :
    clockEdge trig (withOutside refused refusals reads writes s) =
      withOutside refused refusals reads writes (fsmStep trig s) := by
  rw [clockEdge, show (withOutside refused refusals reads writes s).ports.rst = s.ports.rst from rfl, h,
    if_neg Bool.false_ne_true, fsmStep_withOutside]

end

end Sys2Proof.Machine
end

