-- ==== Sys2Proof/Laws/Exec.lean ====
section
/-! SUPPORT. What a transaction and a step can do, said once: every later proof splits on these moves and unfolds no
meaning. -/

namespace Sys2Proof.Machine

/-- Everything a transaction can do. -/
inductive ExecMove (i : Instr) (s : State) : State → Prop
  | pop (w : Word) (rest : List Word) : i = .rdWord → s.fifo = w :: rest → ExecMove i s (popWord w rest s)
  | blocked : i = .rdWord → s.fifo = [] → ExecMove i s (quietCycle (keepRead s))
  | refused (r : Refusal) : i ≠ .rdWord → ExecMove i s (refusedCycle r s)
  | trigger (data : Payload) : i = .wrTrigger data → triggerRefusal data s = none → ExecMove i s (triggerCycle s)
  | timeout (data : Payload) : i = .wrTimeout data → configRefusal s = none → ExecMove i s (timeoutCycle data s)
  | count (data : Payload) : i = .wrCount data → configRefusal s = none → ExecMove i s (countCycle data s)

/-- The inversion of `exec`: it always answers a next state, by one of the moves. -/
theorem exec_moves (i : Instr) (s : State) : ∃ t, exec i s = .next t ∧ ExecMove i s t := by
  cases i with
  | wrTrigger data =>
    simp only [exec, execWrTrigger]
    cases h : triggerRefusal data s with
    | some r => exact ⟨_, rfl, .refused r Instr.noConfusion⟩
    | none => exact ⟨_, rfl, .trigger data rfl h⟩
  | wrTimeout data =>
    simp only [exec, execWrTimeout]
    cases h : configRefusal s with
    | some r => exact ⟨_, rfl, .refused r Instr.noConfusion⟩
    | none => exact ⟨_, rfl, .timeout data rfl h⟩
  | wrCount data =>
    simp only [exec, execWrCount]
    cases h : configRefusal s with
    | some r => exact ⟨_, rfl, .refused r Instr.noConfusion⟩
    | none => exact ⟨_, rfl, .count data rfl h⟩
  | wrReserved03 data => exact ⟨_, rfl, .refused _ Instr.noConfusion⟩
  | wrReserved04 id data => exact ⟨_, rfl, .refused _ Instr.noConfusion⟩
  | wrReserved08 id data => exact ⟨_, rfl, .refused _ Instr.noConfusion⟩
  | wrReserved10 id data => exact ⟨_, rfl, .refused _ Instr.noConfusion⟩
  | wrReserved20 id data => exact ⟨_, rfl, .refused _ Instr.noConfusion⟩
  | wrReserved40 id data => exact ⟨_, rfl, .refused _ Instr.noConfusion⟩
  | wrReserved80 id data => exact ⟨_, rfl, .refused _ Instr.noConfusion⟩
  | rdWord =>
    simp only [exec, execRdWord]
    cases h : s.fifo with
    | nil => exact ⟨_, rfl, .blocked rfl h⟩
    | cons w rest => exact ⟨_, rfl, .pop w rest rfl h⟩

theorem exec_move {i : Instr} {s t : State} (h : exec i s = .next t) : ExecMove i s t := by
  obtain ⟨t', ht', hm⟩ := exec_moves i s
  rw [h] at ht'
  cases ht'
  exact hm

theorem keepRead_takeRead {s : State} (h : s.reads ≠ 0) : keepRead (takeRead s) = s := by
  cases s
  simp only [keepRead, takeRead] at *
  congr 1
  omega

theorem takeWrite_ne_rdWord {c : Config} {ws rest : List BusWrite} {i : Instr}
    (h : takeWrite c ws = some (i, rest)) : i ≠ .rdWord := by
  induction ws with
  | nil => cases h
  | cons w ws ih =>
    unfold takeWrite at h
    split at h
    · cases h
      exact decodeBus_ne_rdWord ‹_›
    · exact ih h

/-- A fetched write leaves everything in place but the write itself. -/
theorem fetchWrite_spec {s s' : State} {i : Instr} (h : fetchWrite s = some (i, s')) :
    i ≠ .rdWord ∧ ∃ ws, takeWrite s.config s.ports.writes = some (i, ws) ∧
      s' = { s with ports := { s.ports with writes := ws } } := by
  unfold fetchWrite at h
  split at h
  · cases h
    exact ⟨takeWrite_ne_rdWord ‹_›, _, ‹_›, rfl⟩
  · cases h

/-- Everything a step can do: pop a word for the host, run the write that lands, or let the cycle pass. -/
inductive StepMove (s : State) : State → Prop
  | pop (w : Word) (rest : List Word) : s.reads ≠ 0 → s.fifo = w :: rest → StepMove s (popWord w rest (takeRead s))
  | write (i : Instr) (s' t : State) : readReady s = false → fetchWrite s = some (i, s') → exec i s' = .next t →
      ExecMove i s' t → StepMove s t
  | quiet : readReady s = false → fetchWrite s = none → StepMove s (quietCycle s)

/-- The inversion of `step`: it always answers a next state, by one of the moves. -/
theorem step_moves (s : State) : ∃ t, step s = .next t ∧ StepMove s t := by
  unfold step
  split
  · rename_i h
    simp only [readReady, Bool.and_eq_true, decide_eq_true_eq, Bool.not_eq_true', List.isEmpty_eq_false_iff] at h
    obtain ⟨w, rest, hf⟩ := List.exists_cons_of_ne_nil h.2
    exact ⟨popWord w rest (takeRead s), by simp [exec, execRdWord, hf], .pop w rest h.1 hf⟩
  · rename_i h
    simp only [Bool.not_eq_true] at h
    split
    · rename_i i s' hw
      obtain ⟨t, ht, hm⟩ := exec_moves i s'
      exact ⟨t, ht, .write i s' t h hw ht hm⟩
    · rename_i hw
      split
      · exact ⟨_, rfl, .quiet h hw⟩
      · rename_i hr
        have hf : s.fifo = [] := by simpa [readReady, hr] using h
        refine ⟨quietCycle s, ?_, .quiet h hw⟩
        simp [exec, execRdWord, hf, keepRead_takeRead hr]

theorem step_move {s t : State} (h : step s = .next t) : StepMove s t := by
  obtain ⟨t', ht', hm⟩ := step_moves s
  rw [h] at ht'
  cases ht'
  exact hm

end Sys2Proof.Machine
end

