-- ==== Sys2Proof/Laws/Host.lean ====
section
/-! SUPPORT. What the host's operations do (spec/42_host_protocol.md), said once: a valid request, one write put on the
timeline, and the channels of a decoded buffer. -/

namespace Sys2Proof.Machine

theorem requestInRange_iff (samples periodNs : Nat) :
    requestInRange samples periodNs = true ↔ 1 ≤ samples ∧ samples ≤ maxSampleCount ∧ minPeriodNs ≤ periodNs := by
  simp [requestInRange, and_assoc]

/-- A write added `k` places ahead stands in that cycle, after the writes already there. -/
theorem addEnvWrite_writes (w : BusWrite) (k : Nat) : ∀ (env : List EnvCycle) (j : Nat),
    ((addEnvWrite k w env).getD j EnvCycle.quiet).writes =
      (env.getD j EnvCycle.quiet).writes ++ if j = k then [w] else [] := by
  induction k with
  | zero => intro env j; cases env <;> cases j <;> simp [addEnvWrite, EnvCycle.quiet]
  | succ k ih =>
    intro env j
    cases env with
    | nil =>
      cases j with
      | zero => simp [addEnvWrite, EnvCycle.quiet]
      | succ j => simpa [addEnvWrite] using ih [] j
    | cons e es =>
      cases j with
      | zero => simp [addEnvWrite]
      | succ j => simpa [addEnvWrite] using ih es j

/-- An added write changes nothing else of any coming cycle. -/
theorem addEnvWrite_rest (w : BusWrite) (k : Nat) : ∀ (env : List EnvCycle) (j : Nat),
    { (addEnvWrite k w env).getD j EnvCycle.quiet with writes := (env.getD j EnvCycle.quiet).writes } =
      env.getD j EnvCycle.quiet := by
  induction k with
  | zero => intro env j; cases env <;> cases j <;> simp [addEnvWrite, EnvCycle.quiet]
  | succ k ih =>
    intro env j
    cases env with
    | nil =>
      cases j with
      | zero => simp [addEnvWrite, EnvCycle.quiet]
      | succ j => simpa [addEnvWrite] using ih [] j
    | cons e es =>
      cases j with
      | zero => simp [addEnvWrite]
      | succ j => simpa [addEnvWrite] using ih es j

theorem unlessBlocked_free {s : State} (move : Except HostError State) (h : s.reads = 0) :
    unlessBlocked s move = move := by
  simp [unlessBlocked, h]

theorem unlessBlocked_blocked {s : State} (move : Except HostError State) (h : s.reads ≠ 0) :
    unlessBlocked s move = .error .blockedOnRead := by
  simp [unlessBlocked, h]

/-- Everything `issueWrite` can do: nothing while the host is blocked, turn down a cycle that is over, or put the write
into the present cycle or a coming one, with one coarse period more on the host's clock. -/
theorem issueWrite_cases (id : RegisterId) (data : Payload) (s : State) :
    (s.reads ≠ 0 ∧ issueWrite id data s = .error .blockedOnRead) ∨
      (s.host.now < s.cycle ∧ s.reads = 0 ∧ issueWrite id data s = .error .timelineInPast) ∨
      (s.host.now = s.cycle ∧ s.reads = 0 ∧ issueWrite id data s = .ok { s with
        host := { s.host with now := s.host.now + 1 }
        ports := { s.ports with writes := s.ports.writes ++ [⟨busAddress s.config.deviceChannel id, data⟩] } }) ∨
      (s.cycle < s.host.now ∧ s.reads = 0 ∧ issueWrite id data s = .ok { s with
        host := { s.host with now := s.host.now + 1 }
        env := addEnvWrite (s.host.now - s.cycle - 1) ⟨busAddress s.config.deviceChannel id, data⟩ s.env }) := by
  by_cases hr : s.reads = 0
  · right
    rw [issueWrite, unlessBlocked_free _ hr, landAt]
    rcases Nat.lt_trichotomy s.host.now s.cycle with h | h | h
    · exact .inl ⟨h, hr, by simp [h]⟩
    · exact .inr (.inl ⟨h, hr, by simp [h]⟩)
    · exact .inr (.inr ⟨h, hr, by rw [if_neg (by omega), if_neg (by omega)]⟩)
  · exact .inl ⟨hr, unlessBlocked_blocked _ hr⟩

theorem assignChannels_length (codes : List Code) : ∀ i, (assignChannels i codes).length = codes.length := by
  induction codes with
  | nil => intro i; rfl
  | cons code codes ih => intro i; simp [assignChannels, ih]

/-- The channels go round from the starting index. -/
theorem assignChannels_get (codes : List Code) : ∀ i j,
    (assignChannels i codes)[j]? = codes[j]?.map (fun code => ((i + j) % channelCount, rawCode code)) := by
  induction codes with
  | nil => intro i j; simp [assignChannels]
  | cons code codes ih =>
    intro i j
    cases j with
    | zero => simp [assignChannels]
    | succ j => simp [assignChannels, ih, show i + 1 + j = i + (j + 1) by omega]

@[simp] theorem unpackPair_length (order : PairOrder) (w : Word) : (unpackPair order w).length = 2 := by
  cases order <;> rfl

/-- Code `i` of a buffer comes from word `i / 2`. -/
theorem unpackPair_get (order : PairOrder) (words : List Word) : ∀ i,
    (words.flatMap (unpackPair order))[i]? = words[i / 2]?.bind (fun w => (unpackPair order w)[i % 2]?) := by
  induction words with
  | nil => intro i; simp
  | cons w words ih =>
    intro i
    match i with
    | 0 => cases order <;> rfl
    | 1 => cases order <;> rfl
    | i + 2 =>
      rw [List.flatMap_cons, List.getElem?_append_right (by simp), unpackPair_length, Nat.add_sub_cancel, ih,
        show (i + 2) / 2 = i / 2 + 1 by omega, show (i + 2) % 2 = i % 2 by omega]
      rfl

end Sys2Proof.Machine
end

