-- ==== Sys2Proof/Laws/PerInstr.lean ====
section
/-! SUPPORT. One lemma for each constructor of `Instr`: the packed word of a well-formed transaction matches the row of
spec/opcode_table.json that the transaction stands for (spec/30_encoding.md R72). -/

namespace Sys2Proof.Laws.MatchesRow

/-- The id and payload of a transaction's packed word match its row of the table; the read has no bits and no row. -/
def Statement (i : Instr) : Prop :=
  i.wellFormed = true →
    match i.rowIndex with
    | none => encode i = []
    | some n => ∃ (id : RegisterId) (data : Payload) (row : OpcodeRow),
        encode i = writeBytes id data ∧ writeRows[n]? = some row ∧
          (id ++ (0 : Payload) : BitVec (8 + 16)) &&& row.mask = row.pattern

theorem wrTrigger (data : Payload) : Statement (.wrTrigger data) := fun _ => ⟨0x00, data, _, rfl, rfl, by decide⟩
theorem wrTimeout (data : Payload) : Statement (.wrTimeout data) := fun _ => ⟨0x01, data, _, rfl, rfl, by decide⟩
theorem wrCount (data : Payload) : Statement (.wrCount data) := fun _ => ⟨0x02, data, _, rfl, rfl, by decide⟩
theorem wrReserved03 (data : Payload) : Statement (.wrReserved03 data) := fun _ => ⟨0x03, data, _, rfl, rfl, by decide⟩

theorem wrReserved04 (id : RegisterId) (data : Payload) : Statement (.wrReserved04 id data) := fun h =>
  ⟨id, data, _, rfl, rfl, by simp only [Instr.wellFormed] at h; revert h; revert id; decide⟩
theorem wrReserved08 (id : RegisterId) (data : Payload) : Statement (.wrReserved08 id data) := fun h =>
  ⟨id, data, _, rfl, rfl, by simp only [Instr.wellFormed] at h; revert h; revert id; decide⟩
theorem wrReserved10 (id : RegisterId) (data : Payload) : Statement (.wrReserved10 id data) := fun h =>
  ⟨id, data, _, rfl, rfl, by simp only [Instr.wellFormed] at h; revert h; revert id; decide⟩
theorem wrReserved20 (id : RegisterId) (data : Payload) : Statement (.wrReserved20 id data) := fun h =>
  ⟨id, data, _, rfl, rfl, by simp only [Instr.wellFormed] at h; revert h; revert id; decide⟩
theorem wrReserved40 (id : RegisterId) (data : Payload) : Statement (.wrReserved40 id data) := fun h =>
  ⟨id, data, _, rfl, rfl, by simp only [Instr.wellFormed] at h; revert h; revert id; decide⟩
theorem wrReserved80 (id : RegisterId) (data : Payload) : Statement (.wrReserved80 id data) := fun h =>
  ⟨id, data, _, rfl, rfl, by simp only [Instr.wellFormed] at h; revert h; revert id; decide⟩

theorem rdWord : Statement .rdWord := fun _ => rfl

end Sys2Proof.Laws.MatchesRow
end

