-- ==== Sys2Proof/Laws/Run.lean ====
section
/-! SUPPORT. The step in the common situations (no transaction lands; a write is refused), and several steps one after
another. -/

namespace Sys2Proof.Machine

/-- Writes of other channels are passed over (R61). -/
theorem takeWrite_append_foreign (c : Config) (before after : List BusWrite)
    (h : ∀ w ∈ before, decodeBus c w = none) : takeWrite c (before ++ after) = takeWrite c after := by
  induction before with
  | nil => rfl
  | cons w ws ih =>
    simp only [List.cons_append, takeWrite, h w (by simp)]
    exact ih (fun v hv => h v (by simp [hv]))

theorem takeWrite_foreign (c : Config) (ws : List BusWrite) (h : ∀ w ∈ ws, decodeBus c w = none) :
    takeWrite c ws = none := by
  simpa [takeWrite] using takeWrite_append_foreign c ws [] h

theorem fetchWrite_foreign (s : State) (h : ∀ w ∈ s.ports.writes, decodeBus s.config w = none) :
    fetchWrite s = none := by
  simp [fetchWrite, takeWrite_foreign _ _ h]

/-- Without a write to the block and without an answerable read, the cycle passes, be the host blocked or not. -/
theorem step_quiet (s : State) (hr : readReady s = false) (hw : fetchWrite s = none) :
    step s = .next (quietCycle s) := by
  simp only [step, hr, hw, Bool.false_eq_true, if_false]
  split
  · rfl
  · rename_i hn
    have hf : s.fifo = [] := by simpa [readReady, hn] using hr
    simp [exec, execRdWord, hf, keepRead_takeRead hn]

theorem quietCycle_eq (s : State) (h1 : s.ports.rst = false) (h2 : s.ports.secondHost = false) :
    quietCycle s = endCycle (fsmStep false s) := by
  simp [quietCycle, clockEdge, markSecondHost_of_not _ h2, h1]

/-- A cycle without transaction is the FSM's step (R100). -/
theorem step_noTransaction (s : State) (h : s.noTransaction) : step s = .next (endCycle (fsmStep false s)) := by
  obtain ⟨h1, h2, h3, h4⟩ := h
  rw [step_quiet s h4 (fetchWrite_foreign s h3), quietCycle_eq s h1 h2]

theorem State.untouched.noTransaction {s : State} (h : s.untouched) : s.noTransaction := by
  obtain ⟨h1, h2, h3, h4⟩ := h
  exact ⟨h1, h3, by simp [h2], by simp [readReady, h4]⟩

/-- A refused write sets the mark, and the cycle is otherwise the FSM's step (R164). -/
theorem refusedCycle_eq (r : Refusal) (s : State) (h1 : s.ports.rst = false) (h2 : s.ports.secondHost = false) :
    refusedCycle r s =
      { endCycle (fsmStep false s) with refused := true, refusals := s.refusals ++ [r] } := by
  have h : raiseRefused r s = withOutside true (s.refusals ++ [r]) s.reads s.ports.writes s := rfl
  rw [refusedCycle, quietCycle_eq (raiseRefused r s) h1 h2, h, fsmStep_withOutside]
  simp [withOutside, endCycle, nextEnv]

@[simp] theorem runSteps_zero (s : State) : runSteps 0 s = .next s := rfl

theorem runSteps_succ {s t : State} (k : Nat) (h : step s = .next t) : runSteps (k + 1) s = runSteps k t := by
  simp only [runSteps, Host.Core.run, core, h]

theorem runSteps_add {s t : State} (j k : Nat) (h : runSteps j s = .next t) : runSteps (j + k) s = runSteps k t := by
  induction j generalizing s with
  | zero => cases h; simp
  | succ j ih =>
    obtain ⟨u, hu, _⟩ := step_moves s
    rw [runSteps_succ j hu] at h
    rw [show j + 1 + k = j + k + 1 by omega, runSteps_succ _ hu]
    exact ih h

theorem EnvCycle.untouched_quiet : EnvCycle.quiet.untouched := ⟨rfl, rfl, rfl, rfl⟩

/-- The present and the coming cycles leave the block alone: so they do after a cycle, whatever the FSM did in it. -/
theorem State.leftAlone.endCycle {s u : State} (h : s.leftAlone) (he : u.env = s.env)
    (hr : u.reads = s.reads) : (endCycle u).leftAlone := by
  obtain ⟨⟨-, -, -, h4⟩, h5⟩ := h
  have hn : nextEnv u = nextEnv s := by rw [nextEnv, nextEnv, he]
  have hh : (nextEnv s).untouched := by
    unfold nextEnv
    cases hs : s.env with
    | nil => exact EnvCycle.untouched_quiet
    | cons e es => exact h5 e (by simp [hs])
  obtain ⟨q1, q2, q3, q4⟩ := hh
  refine ⟨⟨?_, ?_, ?_, ?_⟩, ?_⟩
  · simp [hn, EnvCycle.toPorts, q1]
  · simp [hn, EnvCycle.toPorts, q2]
  · simp [hn, EnvCycle.toPorts, q3]
  · simp only [endCycle_reads, hn, hr, h4, q4]
  · intro e hm
    simp only [endCycle_env, he] at hm
    exact h5 e (List.mem_of_mem_tail hm)

/-- One step of a block that is left alone: the FSM's, and it is left alone after it. -/
theorem State.leftAlone.step {s : State} (h : s.leftAlone) :
    step s = .next (Sys2Proof.Machine.endCycle (fsmStep false s)) ∧
      (Sys2Proof.Machine.endCycle (fsmStep false s)).leftAlone :=
  ⟨step_noTransaction s h.1.noTransaction, h.endCycle (by simp) (by simp)⟩

end Sys2Proof.Machine
end

