-- ==== Sys2Proof/Tests/Slice0.lean ====
section
/-! SUPPORT. The model's own tests. The expected results are the vectors of spec/95_test_vectors.md (named in the
comments) or follow by hand from the rule named; one step each. After them one witness for each statement with
hypotheses, at the boundaries of its clauses. -/

namespace Sys2Proof.Tests

open Sys2Proof.Machine

/-! ## Well-formedness: each check refuses an id just outside its row (30_encoding.md R72) -/

theorem test_illformed_04 : (Instr.wrReserved04 0x08 0).wellFormed = false := by decide
theorem test_illformed_08 : (Instr.wrReserved08 0x07 0).wellFormed = false := by decide
theorem test_illformed_10 : (Instr.wrReserved10 0x20 0).wellFormed = false := by decide
theorem test_illformed_20 : (Instr.wrReserved20 0x1F 0).wellFormed = false := by decide
theorem test_illformed_40 : (Instr.wrReserved40 0x80 0).wellFormed = false := by decide
theorem test_illformed_80 : (Instr.wrReserved80 0x7F 0).wellFormed = false := by decide
theorem test_wellformed_edges : [Instr.wrReserved04 0x04 0, .wrReserved04 0x07 0, .wrReserved08 0x08 0,
    .wrReserved08 0x0F 0, .wrReserved10 0x10 0, .wrReserved10 0x1F 0, .wrReserved20 0x20 0, .wrReserved20 0x3F 0,
    .wrReserved40 0x40 0, .wrReserved40 0x7F 0, .wrReserved80 0x80 0, .wrReserved80 0xFF 0].all
      Instr.wellFormed = true := by decide

/-! ## Decoding: words written out from 30_encoding.md R60, R62, R72 and 95_test_vectors.md 2.1 -/

theorem test_word_trigger : decodeTableWord 24 0x000001 = some (.wrTrigger 0x0001) := by decide
theorem test_word_timeout : decodeTableWord 24 0x010016 = some (.wrTimeout 0x0016) := by decide
theorem test_word_count : decodeTableWord 24 0x020400 = some (.wrCount 0x0400) := by decide
theorem test_word_reserved03 : decodeTableWord 24 0x03ABCD = some (.wrReserved03 0xABCD) := by decide
theorem test_word_reserved04 : decodeTableWord 24 0x07ABCD = some (.wrReserved04 0x07 0xABCD) := by decide
theorem test_word_reserved08 : decodeTableWord 24 0x0AABCD = some (.wrReserved08 0x0A 0xABCD) := by decide
theorem test_word_reserved10 : decodeTableWord 24 0x15ABCD = some (.wrReserved10 0x15 0xABCD) := by decide
theorem test_word_reserved20 : decodeTableWord 24 0x2AABCD = some (.wrReserved20 0x2A 0xABCD) := by decide
theorem test_word_reserved40 : decodeTableWord 24 0x55ABCD = some (.wrReserved40 0x55 0xABCD) := by decide
theorem test_word_reserved80 : decodeTableWord 24 0xAAABCD = some (.wrReserved80 0xAA 0xABCD) := by decide
theorem test_word_read : decodeTableWord 0 0 = some .rdWord := by decide
theorem test_word_too_wide : decodeTableWord 24 0x1000000 = none := by decide
theorem test_bytes_of_a_write : encode (.wrTimeout 0x0381) = [0x81, 0x03, 0x01] := by decide

/-- 95_test_vectors.md 2.1: what the bus addresses select on channel 0x20. -/
theorem test_bus_rows : [⟨0x2000, 1⟩, ⟨0x2001, 22⟩, ⟨0x2002, 1024⟩, ⟨0x2008, 9⟩, ⟨0x20FF, 9⟩, ⟨0x2102, 4⟩,
    ⟨0x1F00, 1⟩].map (decodeBus Config.testVectors) =
      [some (.wrTrigger 1), some (.wrTimeout 22), some (.wrCount 1024), some (.wrReserved08 0x08 9),
        some (.wrReserved80 0xFF 9), none, none] := by decide

/-! ## Small states -/

/-- A coming cycle in which nobody acts and the ADC's pins are 0. -/
def quietEnv : EnvCycle := { EnvCycle.quiet with adc := some ⟨false, Codes.zero⟩ }

/-- The codes of 95_test_vectors.md 2.5. -/
def codes25 : Codes := ⟨0x0001, 0x0002, 0x7FFF, 0x8000, 0xFFFF, 0x0000, 0x1234, 0xABCD⟩

/-- A coming cycle in which the ADC completes with those codes. -/
def doneEnv : EnvCycle := { EnvCycle.quiet with adc := some ⟨true, codes25⟩ }

/-- After reset, with the ADC quiet in the next cycle. -/
def fresh : State := { State.reset with env := [quietEnv] }

/-- In the given state of the FSM with `N = 4`, `T = 22` written. -/
def inState (q : FsmState) : State :=
  { fresh with state := q, conversionTimeout := 22, sampleCount := 4, wrT := true, wrN := true }

/-- The bus address of a register on channel 0x20 (95_test_vectors.md, conventions). -/
def landing (writes : List BusWrite) (s : State) : State :=
  { s with ports := { s.ports with writes := writes } }

def resetLine (s : State) : State :=
  { s with ports := { s.ports with rst := true } }

def secondHostWrites (s : State) : State :=
  { s with ports := { s.ports with secondHost := true } }

def withDepth (n : Nat) (s : State) (h : 0 < n := by decide) : State :=
  { s with config := { s.config with fifoDepth := n, fifoDepth_pos := h } }

def withOffset (offset : WaitOffset) (s : State) : State :=
  { s with config := { s.config with waitOffset := offset } }

/-- The next state of an outcome. -/
def nextOf (o : Host.Outcome State Fault Refusal) : Option State :=
  match o with
  | .next t => some t
  | .fault _ => none
  | .refused _ => none

/-- The state after one step, where there is one. -/
def after (s : State) : State :=
  (nextOf (step s)).getD s

theorem step_after (s : State) : step s = .next (after s) := by
  obtain ⟨t, ht, _⟩ := step_moves s
  simp [after, ht, nextOf]

/-- The marks a step adds to an unmarked state. -/
def marksAfter (s : State) : Bool × List Refusal :=
  ((after s).refused, (after s).refusals)

/-! ## The first step after reset (log 8, log 11): the transaction that is placed is the one that runs -/

theorem test_first_step_timeout :
    (after (State.reset.withFetchWord 24 0x010016)).conversionTimeout = 22 := by decide
theorem test_first_step_read :
    step (State.reset.withFetchWord 0 0) = exec .rdWord (takeRead (placeReadNow State.reset)) := by rfl
theorem test_reset_is_idle : (State.reset.state, State.reset.fifo, State.reset.wrT, State.reset.wrN, State.reset.cycle) =
    (.idle, [], false, false, 0) := by decide

/-! ## Writes: 95_test_vectors.md 2.2 -/

/-- V-W1. -/
theorem test_trigger_starts : ((after (landing [⟨0x2000, 1⟩] (inState .idle))).state,
    (after (landing [⟨0x2000, 1⟩] (inState .idle))).sc) = (.startAcquire, 0) := by decide
/-- V-W10: the payload is checked before the state. -/
theorem test_trigger_payload_first : marksAfter (landing [⟨0x2000, 0⟩] (inState .acquiring)) =
    (true, [.triggerPayload]) := by decide
/-- V-W11. -/
theorem test_timeout_stores : ((after (landing [⟨0x2001, 0⟩] fresh)).conversionTimeout,
    (after (landing [⟨0x2001, 0⟩] fresh)).wrT) = (0, true) := by decide
/-- V-W15. -/
theorem test_timeout_busy : marksAfter (landing [⟨0x2001, 1⟩] { inState .conversionWait with tc := 2 }) =
    (true, [.configWhileBusy]) := by decide
/-- V-W12. -/
theorem test_count_stores_zero : ((after (landing [⟨0x2002, 0⟩] (inState .idle))).sampleCount,
    (after (landing [⟨0x2002, 0⟩] (inState .idle))).refused) = (0, false) := by decide
/-- V-W16. -/
theorem test_collision : marksAfter (landing [⟨0x2001, 1⟩, ⟨0x2002, 2⟩] fresh) = (true, [.writeCollision]) ∧
    (after (landing [⟨0x2001, 1⟩, ⟨0x2002, 2⟩] fresh)).wrT = false := by decide
/-- V-W17: the reset is checked before the id. -/
theorem test_reserved_in_reset : marksAfter (resetLine (landing [⟨0x2003, 1⟩] fresh)) =
    (true, [.writeDuringReset]) := by decide
/-- V-W18: the id is checked before the state; the FSM still reads (R164). -/
theorem test_reserved_in_reading : marksAfter (landing [⟨0x2003, 0⟩] (inState .reading)) =
    (true, [.reservedRegister]) ∧ (after (landing [⟨0x2003, 0⟩] (inState .reading))).mux = 1 := by decide
/-- 2.1: ids 0x04, 0x10, 0x20 are refused alike. -/
theorem test_reserved_rows : [0x2004, 0x2010, 0x2020].map (fun a => marksAfter (landing [⟨a, 0⟩] fresh)) =
    [(true, [.reservedRegister]), (true, [.reservedRegister]), (true, [.reservedRegister])] := by decide
/-- 2.1: ids 0x08, 0x40, 0xFF are refused alike. -/
theorem test_reserved_rows_high : [0x2008, 0x2040, 0x20FF].map (fun a => marksAfter (landing [⟨a, 0⟩] fresh)) =
    [(true, [.reservedRegister]), (true, [.reservedRegister]), (true, [.reservedRegister])] := by decide
/-- 2.1: a write to channel 0x21 reaches another device. -/
theorem test_other_channel : marksAfter (landing [⟨0x2102, 4⟩] fresh) = (false, []) := by decide

/-! ## The read: 40_bus_transactions.md R85 -/

theorem test_read_pops : ((after { inState .acquiring with reads := 2, fifo := [0x00000001, 0x00020003] }).fifo,
    (after { inState .acquiring with reads := 2, fifo := [0x00000001, 0x00020003] }).host.buffer) =
      ([0x00020003], [0x00000001]) := by decide
/-- R139: the pending samples are kept until the last word of the transfer has come. -/
theorem test_transfer_clears_last :
    [2, 1].map (fun n => (after { inState .idle with
      reads := n
      fifo := [5, 6]
      host := ⟨3, 1, n, [1, 2]⟩ }).host.pendingSamples) = [1, 0] := by decide
theorem test_read_blocks : ((after { inState .idle with reads := 1 }).reads,
    (after { inState .idle with reads := 1 }).cycle) = (1, 1) := by decide

/-! ## The FSM: 95_test_vectors.md 2.4 and 2.5, 41_fsm.md -/

/-- R103, R33. -/
theorem test_start_pulse : (adcStart (inState .startAcquire), (after (inState .startAcquire)).state) =
    (true, .acquiring) := by decide
/-- R104's example. -/
theorem test_capture : ((after { inState .acquiring with mux := 3, ports :=
      { State.reset.ports with adcDone := true, adcCode := codes25 } }).bank) = codes25 := by decide
/-- 2.5, EvenHigh. -/
theorem test_words_even_high : bankWords .evenHigh codes25 = [0x00010002, 0x7FFF8000, 0xFFFF0000, 0x1234ABCD] := by
  decide
/-- 2.5, EvenLow. -/
theorem test_words_even_low : bankWords .evenLow codes25 = [0x00020001, 0x80007FFF, 0x0000FFFF, 0xABCD1234] := by
  decide
/-- R107's example. -/
theorem test_push_word_two : (after { inState .reading with mux := 2, bank :=
      ⟨0, 0, 0, 0, 0x1234, 0xFFFE, 0, 0⟩ }).fifo = [0x1234FFFE] := by decide
/-- R108's example. -/
theorem test_branch_to_wait :
    ((after { inState .reading with mux := 3, sc := 1 }).sc, (after { inState .reading with mux := 3, sc := 1 }).tc,
      (after { inState .reading with mux := 3, sc := 1 }).state) = (2, 22, .conversionWait) := by decide
/-- R110's last cycle; R111 still waits there. -/
theorem test_wait_ends : ((after { inState .conversionWait with tc := 1 }).state,
    (after (withOffset .one { inState .conversionWait with tc := 1 })).state) =
      (.startAcquire, .conversionWait) := by decide
/-- V-F10, cycle 11: the fault records the cycle, `sc` and `mux`; the word is not pushed. -/
theorem test_overflow :
    ((after (withDepth 4 { inState .reading with sc := 1, cycle := 11, fifo := [1, 2, 3, 4] })).faults,
      (after (withDepth 4 { inState .reading with sc := 1, cycle := 11, fifo := [1, 2, 3, 4] })).fifo) =
        ([.fifoOverflow 11 1 0], [1, 2, 3, 4]) := by decide
/-- V-R1, V-R2: the reset during Reading. -/
theorem test_reset_in_reading : ((after (resetLine { inState .reading with fifo := [1], refused := true })).state,
    (after (resetLine { inState .reading with fifo := [1], refused := true })).fifo,
    (after (resetLine { inState .reading with fifo := [1], refused := true })).wrT,
    (after (resetLine { inState .reading with fifo := [1], refused := true })).refused) =
      (.idle, [], false, true) := by decide

/-! ## The host's side: 95_test_vectors.md 2.3, 2.6 and S2 -/

theorem test_timeouts : [824, 831, 832, 1000, 8000, 525104, 525111, 525112].map timeoutOfPeriod =
    [0, 0, 1, 22, 897, 65535, 65535, 65536] := by decide
/-- V-H1. -/
theorem test_decode_channels : hostDecode .evenHigh (bankWords .evenHigh codes25) =
    [(0, 1), (1, 2), (2, 32767), (3, -32768), (4, -1), (5, 0), (6, 4660), (7, -21555)] := by decide
/-- S2 and P2's first three lines. -/
theorem test_sample_timeline : (hostSample 2 1000 State.reset).toOption.map
    (fun t => (writesAt 0 t, writesAt 1 t, writesAt 2 t, t.host.now)) =
      some ([⟨0x2001, 0x0016⟩], [⟨0x2002, 2⟩], [⟨0x2000, 1⟩], 3) := by decide

/-- P3: after the first `sample` the host waits to cycle 20 and triggers again. -/
theorem test_wait_then_trigger : (((hostSample 1 824 State.reset).bind (hostWait 17)).bind hostTrigger).toOption.map
    (fun t => (writesAt 20 t, t.host.now)) = some ([⟨0x2000, 1⟩], 21) := by decide
/-- R173: a host blocked on a read does not trigger. -/
theorem test_blocked_host : (hostTrigger { fresh with reads := 1 }).toOption = none := by decide

/-! ## Witnesses: the hypotheses of each statement can be met -/

theorem witness_decodeOfEncode : (Instr.wrReserved40 0x7F 0xFFFF).wellFormed = true := by decide

theorem witness_encodeOfDecode : (decode [0xFF, 0xFF, 0xFF]).toOption = some (.wrReserved80 0xFF 0xFFFF) ∧
    (decode []).toOption = some .rdWord ∧
    ([0x00] : List Byte).length ≠ 0 ∧ ([0x00] : List Byte).length ≠ 3 := by decide

theorem witness_registerIdSelects : 8 ≤ (0x08 : RegisterId).toNat ∧ (0x07 : RegisterId).toNat < 8 ∧
    3 ≤ (0x03 : RegisterId).toNat := by decide

theorem witness_busAddress : Config.testVectors.addrMap = AddrMap.interfaceListing ∧
    decodeBus Config.testVectors ⟨0x2007, 5⟩ = some (.wrReserved04 0x07 5) := by decide

theorem witness_otherChannel : deviceChannel 0x2102 ≠ fresh.config.deviceChannel ∧ readReady fresh = false := by decide

theorem witness_stepRunsTheLandedWrite : let s := landing [⟨0x2102, 4⟩, ⟨0x2002, 8⟩, ⟨0x1F00, 1⟩] fresh
    readReady s = false ∧ s.ports.writes = [⟨0x2102, 4⟩] ++ ⟨0x2002, 8⟩ :: [⟨0x1F00, 1⟩] ∧
      (∀ v ∈ [(⟨0x2102, 4⟩ : BusWrite)], decodeBus s.config v = none) ∧
      decodeBus s.config ⟨0x2002, 8⟩ = some (.wrCount 8) := by decide

theorem witness_stepRunsTheHostsRead :
    (({ fresh with reads := 1, fifo := [7] }).reads ≠ 0 ∧ ({ fresh with reads := 1, fifo := [7] }).fifo ≠ []) ∧
      (({ fresh with reads := 1 }).reads ≠ 0 ∧ ({ fresh with reads := 1 }).fifo = [] ∧
        ∀ v ∈ ({ fresh with reads := 1 }).ports.writes, decodeBus fresh.config v = none) ∧
      fresh.reads = 0 ∧ ∀ v ∈ fresh.ports.writes, decodeBus fresh.config v = none := by decide

theorem witness_placedTransaction : fresh.config.addrMap = AddrMap.interfaceListing ∧
    decodeTableWord 24 0x020004 = some (.wrCount 4) ∧ decodeTableWord 0 0 = some .rdWord := by decide

theorem witness_everyCycleRunsTheFsm : let s := landing [⟨0x2000, 1⟩] (inState .idle)
    step s = .next (after s) ∧ s.ports.rst = false ∧ readReady s = false ∧
      (fetchWrite s).map (fun p => (p.1, triggerRefusal 0x0001 p.2)) = some (.wrTrigger 0x0001, none) :=
  ⟨step_after _, by decide⟩

theorem witness_stepIsOneCycleOrOneRead : step fresh = .next (after fresh) ∧
    step { fresh with reads := 1, fifo := [7] } = .next (after { fresh with reads := 1, fifo := [7] }) :=
  ⟨step_after _, step_after _⟩

theorem witness_endOfCycle : (fresh.env = quietEnv :: [] ∧ quietEnv.adc = some ⟨false, Codes.zero⟩) ∧
    ({ fresh with env := [EnvCycle.quiet] }).env = EnvCycle.quiet :: [] ∧ EnvCycle.quiet.adc = none ∧
    State.reset.env = [] := by decide

/-- Both ends of the range of `N` (V-W6). -/
theorem witness_admittedTrigger :
    ∀ s ∈ [{ inState .idle with sampleCount := 1 }, { inState .idle with sampleCount := 1024 }],
      s.ports.rst = false ∧ anotherWriteLands s = false ∧ s.state = .idle ∧ s.wrT = true ∧ s.wrN = true ∧
        1 ≤ s.sampleCount.toNat ∧ s.sampleCount.toNat ≤ 1024 := by decide +kernel

/-- V-W8, V-W9, V-W3, V-W4 and V-W5: one state for each check that fails. -/
theorem witness_unadmittedTrigger :
    ∀ p ∈ [(inState .idle, (0x0003 : Payload), Refusal.triggerPayload),
      (inState .startAcquire, 0x0001, .triggerWhileBusy),
      ({ inState .idle with wrN := false }, 0x0001, .configUnwritten),
      ({ inState .idle with sampleCount := 0 }, 0x0001, .sampleCountRange),
      ({ inState .idle with sampleCount := 1025 }, 0x0001, .sampleCountRange)],
      p.1.ports.rst = false ∧ anotherWriteLands p.1 = false ∧
        (if p.2.1 ≠ 0x0001 then some Refusal.triggerPayload
          else if p.1.state ≠ .idle then some Refusal.triggerWhileBusy
          else if p.1.wrT = false ∨ p.1.wrN = false then some Refusal.configUnwritten
          else if p.1.sampleCount.toNat = 0 ∨ 1024 < p.1.sampleCount.toNat then some Refusal.sampleCountRange
          else none) = some p.2.2 := by decide

theorem witness_configWrite : fresh.ports.rst = false ∧ anotherWriteLands fresh = false ∧ fresh.state = .idle := by
  decide

theorem witness_configWriteWhileBusy : (Instr.wrTimeout 1 = .wrTimeout 1 ∨ Instr.wrTimeout 1 = .wrCount 1) ∧
    (Instr.wrCount 1 = .wrTimeout 1 ∨ Instr.wrCount 1 = .wrCount 1) ∧
    (inState .reading).ports.rst = false ∧ anotherWriteLands (inState .reading) = false ∧
    (inState .reading).state ≠ .idle := by decide

theorem witness_reservedWrite : fresh.ports.rst = false ∧ anotherWriteLands fresh = false ∧
    Instr.wrReserved20 0x20 7 ∈ reservedWrites 0x20 7 := by decide

theorem witness_collidingWrite : (landing [⟨0x2002, 2⟩] fresh).ports.rst = false ∧
    anotherWriteLands (landing [⟨0x2002, 2⟩] fresh) = true ∧ anotherWriteLands (secondHostWrites fresh) = true ∧
    Instr.wrTimeout 1 ∈ allWrites 0x03 1 := by decide

theorem witness_writeDuringReset : (resetLine fresh).ports.rst = true ∧
    (resetLine (secondHostWrites fresh)).ports.rst = true ∧ (resetLine (secondHostWrites fresh)).ports.secondHost = true ∧
    Instr.wrReserved03 1 ∈ allWrites 0x03 1 := by decide

theorem witness_secondHost : let s := secondHostWrites fresh
    s.ports.rst = false ∧ s.ports.secondHost = true ∧ readReady s = false ∧
      ∀ w ∈ s.ports.writes, decodeBus s.config w = none := by decide

theorem witness_writesLeaveTheRest : ∀ i ∈ allWrites 0x03 1, (inState .reading).ports.rst = false ∧
    ∃ t, exec i (inState .reading) = .next t := by
  intro i _
  obtain ⟨t, ht, _⟩ := exec_moves i (inState .reading)
  exact ⟨rfl, t, ht⟩

theorem witness_readReturns : ({ fresh with fifo := [7, 8] }).fifo = 7 :: [8] := by decide

theorem witness_readOnEmpty : fresh.fifo = [] ∧ fresh.ports.rst = false ∧ fresh.ports.secondHost = false := by decide

/-- Each state of the FSM, with a write of another channel landing and the host blocked on a read. -/
theorem witness_noTransaction : ∀ q ∈ [FsmState.idle, .startAcquire, .acquiring, .reading, .conversionWait],
    (landing [⟨0x2102, 4⟩] { inState q with reads := 1 }).noTransaction := by decide

/-- Idle with a refused trigger landing. -/
theorem witness_idleStays : let s := landing [⟨0x2000, 1⟩] fresh
    s.state = .idle ∧ s.ports.rst = false ∧ readReady s = false ∧
      ∀ data s', fetchWrite s = some (.wrTrigger data, s') → triggerRefusal data s' ≠ none := by
  refine ⟨by decide, by decide, by decide, fun data s' h => ?_⟩
  have h' : some (Instr.wrTrigger 1, landing [] fresh) = some (.wrTrigger data, s') := h
  cases h'
  decide

/-- Idle with a configuration write landing. -/
theorem witness_idleStays_config : let s := landing [⟨0x2002, 8⟩] fresh
    s.state = .idle ∧ s.ports.rst = false ∧ readReady s = false ∧
      ∀ data s', fetchWrite s = some (.wrTrigger data, s') → triggerRefusal data s' ≠ none := by
  refine ⟨by decide, by decide, by decide, fun data s' h => ?_⟩
  have h' : some (Instr.wrCount 8, landing [] fresh) = some (.wrTrigger data, s') := h
  cases h'

theorem witness_completion : ({ inState .acquiring with ports := { State.reset.ports with adcDone := true } }).noTransaction ∧
    ({ inState .acquiring with ports := { State.reset.ports with adcDone := true } }).ports.adcDone = true ∧
    (inState .acquiring).noTransaction ∧ (inState .acquiring).ports.adcDone = false := by decide

/-- Room for exactly one word. -/
theorem witness_readingPushes :
    let s := withDepth 4 { inState .reading with mux := 2, fifo := [1, 2, 3] }
    s.noTransaction ∧ s.state = .reading ∧ s.mux ≠ 3 ∧ s.fifo.length < s.config.fifoDepth := by decide

/-- The three branches at the last word: the last sample, `T = 0`, and `T` at 1 or more. -/
theorem witness_lastWord : ∀ s ∈ [{ inState .reading with mux := 3, sampleCount := 1 },
    { inState .reading with mux := 3, sc := 2, conversionTimeout := 0 }, { inState .reading with mux := 3, sc := 2 }],
      s.noTransaction ∧ s.state = .reading ∧ s.mux = 3 ∧ s.fifo.length < s.config.fifoDepth ∧
        1 ≤ s.sampleCount.toNat := by decide

/-- A full FIFO before and at the last word, on each of its branches. -/
theorem witness_fullFifo : ∀ s ∈ [{ inState .reading with mux := 2 }, { inState .reading with mux := 3, sc := 3 },
    { inState .reading with mux := 3, conversionTimeout := 0 }, { inState .reading with mux := 3 }],
      (withDepth 1 { s with fifo := [7] }).noTransaction ∧ (withDepth 1 { s with fifo := [7] }).state = .reading ∧
        (withDepth 1 { s with fifo := [7] }).config.fifoDepth ≤ (withDepth 1 { s with fifo := [7] }).fifo.length := by
  decide

/-- One more cycle to wait, and the last one, under either WAIT_OFFSET. -/
theorem witness_waitCountsDown : ∀ p ∈ [(WaitOffset.zero, (1 : BitVec 16)), (.zero, 2), (.one, 0), (.one, 1)],
    let s := withOffset p.1 { inState .conversionWait with tc := p.2 }
    s.noTransaction ∧ s.state = .conversionWait ∧ (s.config.waitOffset = .zero → 1 ≤ s.tc.toNat) := by decide

/-- The shortest waits, and R110's example. -/
theorem witness_waitLasts : ∀ p ∈ [(WaitOffset.zero, (1 : BitVec 16)), (.one, 0), (.zero, 3)],
    let s := withOffset p.1 { inState .conversionWait with tc := p.2 }
    s.leftAlone ∧ s.state = .conversionWait ∧ s.tc.toNat = p.2.toNat ∧
      (s.config.waitOffset = .zero → 1 ≤ p.2.toNat) := by decide +kernel

theorem witness_fourWords : let s := withDepth 5 { inState .reading with bank := codes25, fifo := [9] }
    s.leftAlone ∧ s.state = .reading ∧ s.mux = 0 ∧ s.fifo.length + 4 ≤ s.config.fifoDepth ∧
      1 ≤ s.sampleCount.toNat := by decide

/-- V-F1's burst: one sample, completing in its first Acquiring cycle. -/
theorem witness_burst_one : let s := { inState .startAcquire with sampleCount := 1, env := [doneEnv] }
    let draws := [(0, codes25)]
    s.leftAlone ∧ s.state = .startAcquire ∧ s.sc = 0 ∧ s.sampleCount.toNat = draws.length ∧ 1 ≤ draws.length ∧
      draws.length ≤ 1024 ∧ s.fifo.length + 4 * draws.length ≤ s.config.fifoDepth ∧
      adcServes (waitCycles s) draws s.env := by
  refine ⟨by decide, by decide, by decide, by decide, by decide, by decide, by decide, ?_⟩
  exact ⟨by decide, by decide, trivial⟩

/-- V-F3's burst (two samples, `T = 3`, the FIFO just large enough), with a second Acquiring cycle in the first sample. -/
theorem witness_burst_two :
    let s := withDepth 8 { inState .startAcquire with
      sampleCount := 2
      conversionTimeout := 3
      env := [quietEnv, doneEnv] ++ List.replicate 8 quietEnv ++ [doneEnv] }
    let draws := [(1, codes25), (0, codes25)]
    s.leftAlone ∧ s.state = .startAcquire ∧ s.sc = 0 ∧ s.sampleCount.toNat = draws.length ∧ 1 ≤ draws.length ∧
      draws.length ≤ 1024 ∧ s.fifo.length + 4 * draws.length ≤ s.config.fifoDepth ∧
      adcServes (waitCycles s) draws s.env := by
  refine ⟨by decide, by decide, by decide, by decide, by decide, by decide, by decide, ?_⟩
  exact ⟨by decide, by decide, by decide, by decide, trivial⟩

/-- The invariant in each state of the FSM, at the edges of its clauses. -/
theorem witness_invariant : ∀ s ∈ [fresh, inState .startAcquire, { inState .acquiring with sc := 3 },
    { inState .reading with sampleCount := 1024, sc := 1023 }, { inState .conversionWait with tc := 22 },
    { inState .conversionWait with tc := 1, refused := true, refusals := [.configWhileBusy] },
    withOffset .one { inState .conversionWait with tc := 0 },
    { inState .reading with reads := 3, host := ⟨3, 1, 3, [1]⟩ }],
      s.Inv ∧ step s = .next (after s) :=
  fun s hs => ⟨(by decide : ∀ s ∈ _, State.Inv s) s hs, step_after s⟩

theorem witness_marks : step { fresh with refused := true, faults := [.fifoOverflow 0 0 0] } =
    .next (after { fresh with refused := true, faults := [.fifoOverflow 0 0 0] }) := step_after _

theorem witness_leavesIdle : let s := landing [⟨0x2000, 1⟩] (inState .idle)
    step s = .next (after s) ∧ s.state = .idle ∧ (after s).state ≠ .idle := ⟨step_after _, by decide, by decide⟩

/-- A burst ended by its last word, and one ended by a reset. -/
theorem witness_endsBurst : ∀ s ∈ [{ inState .reading with mux := 3, sc := 3 }, resetLine (inState .acquiring)],
    step s = .next (after s) ∧ s.state ≠ .idle ∧ (after s).state = .idle :=
  fun s hs => ⟨step_after s,
    (by decide : ∀ s ∈ [{ inState .reading with mux := 3, sc := 3 }, resetLine (inState .acquiring)],
      s.state ≠ .idle ∧ (after s).state = .idle) s hs⟩

theorem witness_entersTheWait : let s := { inState .reading with mux := 3, sc := 2 }
    step s = .next (after s) ∧ s.state ≠ .conversionWait ∧ (after s).state = .conversionWait :=
  ⟨step_after _, by decide, by decide⟩

theorem witness_configChanges : let s := landing [⟨0x2001, 5⟩] fresh
    let u := landing [⟨0x2002, 5⟩] fresh
    (step s = .next (after s) ∧ s.ports.rst = false ∧ (after s).conversionTimeout ≠ s.conversionTimeout ∧
        (after s).wrT ≠ s.wrT) ∧
      (step u = .next (after u) ∧ u.ports.rst = false ∧ (after u).sampleCount ≠ u.sampleCount ∧
        (after u).wrN ≠ u.wrN) ∧
      step (resetLine fresh) = .next (after (resetLine fresh)) ∧ (resetLine fresh).ports.rst = true ∧
        readReady (resetLine fresh) = false :=
  ⟨⟨step_after _, by decide, by decide, by decide⟩, ⟨step_after _, by decide, by decide, by decide⟩, step_after _,
    by decide, by decide⟩

/-- The four things that can happen to the FIFO. -/
theorem witness_fifo :
    (step (resetLine { fresh with fifo := [1] }) = .next (after (resetLine { fresh with fifo := [1] })) ∧
        (after (resetLine { fresh with fifo := [1] })).fifo = []) ∧
      (step { fresh with fifo := [1, 2], reads := 1 } = .next (after { fresh with fifo := [1, 2], reads := 1 }) ∧
        (after { fresh with fifo := [1, 2], reads := 1 }).fifo = [2]) ∧
      (step { fresh with fifo := [1] } = .next (after { fresh with fifo := [1] }) ∧
        (after { fresh with fifo := [1] }).fifo = [1]) ∧
      step { inState .reading with bank := codes25 } = .next (after { inState .reading with bank := codes25 }) ∧
        (after { inState .reading with bank := codes25 }).fifo = [0x00010002] :=
  ⟨⟨step_after _, by decide⟩, ⟨step_after _, by decide⟩, ⟨step_after _, by decide⟩, step_after _, by decide⟩

/-- An ended run with a request never triggered and with another channel's write on the bus. -/
theorem witness_endedRun : let s := landing [⟨0x2102, 4⟩] { inState .idle with host := ⟨2, 4, 0, []⟩ }
    runEnded s ∧ ∀ e ∈ s.env, e.reads = 0 := by decide

theorem witness_deviceReset : let s := resetLine { inState .reading with fifo := [1], refused := true }
    (s.ports.rst = true ∧ readReady s = false ∧ ∀ w ∈ s.ports.writes, decodeBus s.config w = none) ∧
      (secondHostWrites s).ports.rst = true ∧ readReady (secondHostWrites s) = false ∧
      ∀ w ∈ (secondHostWrites s).ports.writes, decodeBus (secondHostWrites s).config w = none := by decide

theorem witness_triggerAfterReset : let s := resetLine (inState .reading)
    s.ports.rst = true ∧ readReady s = false ∧ step s = .next (after s) ∧ (after s).ports.rst = false ∧
      anotherWriteLands (after s) = false ∧ ∃ u, exec (.wrTrigger 0x0001) (after s) = .next u := by
  refine ⟨by decide, by decide, step_after _, by decide, by decide, ?_⟩
  obtain ⟨u, hu, _⟩ := exec_moves (.wrTrigger 0x0001) (after (resetLine (inState .reading)))
  exact ⟨u, hu⟩

/-- A count below, a count above, a period below (2.3). -/
theorem witness_invalidRequest : fresh.reads = 0 ∧ ∀ p ∈ [(0, 824), (1025, 824), (1, 823)], p.1 = 0 ∨ 1024 < p.1 ∨ p.2 < 824 := by decide

theorem witness_timeoutOfPeriod : 824 ≤ 824 ∧ 824 ≤ 831 := by decide

/-- Both sides of the largest period (2.3), and the smallest. -/
theorem witness_oversizeTimeout : State.reset.reads = 0 ∧ (1 ≤ 1 ∧ 1024 ≤ 1024) ∧ 525112 ≤ 525112 ∧ (824 ≤ 824 ∧ 824 < 525112) ∧
    (824 ≤ 525111 ∧ 525111 < 525112) ∧ State.reset.cycle ≤ State.reset.host.now := by decide

/-- A valid request at both ends of its ranges; the host's clock in the present cycle and ahead of it. -/
theorem witness_validRequest : ∀ p ∈ [(1, 824, fresh), (1024, 525111, { fresh with host := { fresh.host with now := 5 } })],
    1 ≤ p.1 ∧ p.1 ≤ 1024 ∧ 824 ≤ p.2.1 ∧ p.2.1 < 525112 ∧ p.2.2.cycle ≤ p.2.2.host.now ∧ p.2.2.reads = 0 := by decide

/-- V-F1's end (cycle 9), with the host's clock still at 3, and a host whose clock is at the present cycle. -/
theorem witness_sampleStartsTheBurst : (1 ≤ 2 ∧ 2 ≤ 1024 ∧ 824 ≤ 1000 ∧ 1000 < 525112) ∧
    ∀ s ∈ [{ inState .idle with cycle := 9, host := ⟨3, 1, 0, []⟩ }, fresh],
      s.state = .idle ∧ s.leftAlone ∧ s.host.now ≤ s.cycle ∧ s.config.addrMap = AddrMap.interfaceListing := by decide

/-- One pending sample with its four words in the FIFO and one word more. -/
theorem witness_transfer : let s := { fresh with fifo := [1, 2, 3, 4, 5], host := ⟨3, 1, 0, []⟩ }
    s.reads = 0 ∧ s.host.pendingSamples * 4 ≤ s.fifo.length := by decide

theorem witness_blockedHost : ({ fresh with reads := 1 }).reads ≠ 0 ∧ fresh.reads = 0 := by decide

theorem witness_decodeAssigns : (hostDecode .evenHigh (bankWords .evenHigh codes25))[3]? = some (3, -32768) := by decide

end Sys2Proof.Tests
end

section
/-! The FSM's rules for a cycle in Idle without the trigger pulse (spec/41_fsm.md R102) and for a Reading cycle before the
last word (R109). -/

namespace Sys2Proof.Machine

/-- What R102 keeps: the FSM's registers, the FIFO and the faults of `t` are those of `s`. -/
def SameFsm (s t : State) : Prop :=
  t.state = s.state ∧ t.sc = s.sc ∧ t.mux = s.mux ∧ t.tc = s.tc ∧ t.bank = s.bank ∧ t.fifo = s.fifo ∧
    t.faults = s.faults

section

variable {s : State}

theorem fsmStep_idle_of_no_trigger (h : s.state = .idle) : fsmStep false s = s := by
  simp [fsmStep_idle s false h, fsmIdle]

theorem clockEdge_idle_of_no_trigger (h : s.state = .idle) (hr : s.ports.rst = false) : clockEdge false s = s := by
  simp [clockEdge, hr, fsmStep_idle_of_no_trigger h]

theorem clockEdge_markSecondHost_idle (h : s.state = .idle) (hr : s.ports.rst = false) :
    clockEdge false (markSecondHost s) = markSecondHost s :=
  clockEdge_idle_of_no_trigger (by simpa using h) (by simpa using hr)

theorem sameFsm_quietCycle (h : s.state = .idle) (hr : s.ports.rst = false) : SameFsm s (quietCycle s) := by
  simp [quietCycle, clockEdge_markSecondHost_idle h hr, SameFsm]

/-- A write that is no admitted trigger leaves Idle's registers alone, whether it is refused or stores a configuration
register. -/
theorem ExecMove.sameFsm {i : Instr} {t : State} (hm : ExecMove i s t) (hi : i ≠ .rdWord) (h : s.state = .idle)
    (hr : s.ports.rst = false) (htrig : ∀ data, i = .wrTrigger data → triggerRefusal data s ≠ none) : SameFsm s t := by
  cases hm with
  | pop w rest hrd _ => exact absurd hrd hi
  | blocked hrd _ => exact absurd hrd hi
  | refused r _ => exact sameFsm_quietCycle (s := raiseRefused r s) h hr
  | trigger data hd hnone => exact absurd hnone (htrig data hd)
  | timeout data _ _ => simp [timeoutCycle, clockEdge_markSecondHost_idle h hr, SameFsm]
  | count data _ _ => simp [countCycle, clockEdge_markSecondHost_idle h hr, SameFsm]

/-- The same for a whole step that answers no read first. -/
theorem StepMove.sameFsm {t : State} (hm : StepMove s t) (h : s.state = .idle) (hr : s.ports.rst = false)
    (hread : readReady s = false)
    (htrig : ∀ data s', fetchWrite s = some (.wrTrigger data, s') → triggerRefusal data s' ≠ none) : SameFsm s t := by
  cases hm with
  | pop w rest hreads hfifo => simp [readReady, hreads, hfifo] at hread
  | write i s' _ _ hfetch _ hexec =>
    obtain ⟨hi, ws, -, rfl⟩ := fetchWrite_spec hfetch
    exact hexec.sameFsm hi h hr fun data hd => htrig data _ (hd ▸ hfetch)
  | quiet _ _ => exact sameFsm_quietCycle h hr

/-- R109: before the last word a Reading cycle pushes and advances `mux`, and there is no branch. -/
theorem fsmReading_of_mux_ne_last (hm : s.mux ≠ 3) :
    fsmReading s = advanceMux (pushWord (muxWord s.config.pairOrder s.bank s.mux) s) := by
  have hl : lastWord s = false := beq_false_of_ne hm
  simp [fsmReading, hl]

end

/-- Settles O26: the step's inversion leaves a refused write, a stored configuration register or no write at all, and in
each of them Idle's clock edge changes nothing. -/
theorem idleWithoutTriggerStays : Obligations.IdleWithoutTriggerStays := by
  constructor
  · intro s hidle hrst hread htrig
    obtain ⟨t, hstep, hmove⟩ := step_moves s
    obtain ⟨hstate, hrest⟩ := hmove.sameFsm hidle hrst hread htrig
    exact ⟨by simp [adcStart, hidle], t, hstep, hstate.trans hidle, hrest⟩
  · intro s hs hidle
    rw [step_noTransaction s hs, fsmStep_idle_of_no_trigger hidle]

/-- Settles O30: with room the push appends the word (R107), and before the last word only `mux` advances besides. -/
theorem readingPushesAndStays : Obligations.ReadingPushesAndStays := by
  intro s hs hreading hmux hroom
  rw [step_noTransaction s hs, fsmStep_reading s false hreading, fsmReading_of_mux_ne_last hmux,
    pushWord_room s _ hroom, advanceMux]

end Sys2Proof.Machine
end

section
/-! The host's operations (spec/42_host_protocol.md): one write put on the timeline (R137), a request that is out of
range (R133), the timeout of a period (R134) and the channels of a decoded buffer (R145). -/

namespace Sys2Proof.Machine

section

variable {s : State}

/-- A write put into the present cycle is found there, after the writes already in it, and in no other cycle. -/
theorem writesAt_addPortWrite (w : BusWrite) (host : HostSide) (c : Nat) :
    writesAt c { s with host := host, ports := { s.ports with writes := s.ports.writes ++ [w] } } =
      writesAt c s ++ if c = s.cycle then [w] else [] := by
  rcases Nat.lt_trichotomy c s.cycle with h | h | h
  · simp [writesAt, h, h.ne]
  · simp [writesAt, h]
  · simp [writesAt, h.not_gt, h.ne']

/-- A write put into the coming cycle `n` is found there, after the writes already in it, and in no other cycle. -/
theorem writesAt_addEnvWrite (w : BusWrite) (host : HostSide) {n : Nat} (hn : s.cycle < n) (c : Nat) :
    writesAt c { s with host := host, env := addEnvWrite (n - s.cycle - 1) w s.env } =
      writesAt c s ++ if c = n then [w] else [] := by
  rcases Nat.lt_trichotomy c s.cycle with h | h | h
  · simp [writesAt, h, (h.trans hn).ne]
  · simp [writesAt, h, hn.ne]
  · have hplace : c - s.cycle - 1 = n - s.cycle - 1 ↔ c = n := by omega
    simp only [writesAt, if_neg h.not_gt, if_neg h.ne', addEnvWrite_writes, hplace]

/-- R131, R136, R137: a host that is not blocked and whose clock is not over puts its one write into the cycle `now`,
lets one coarse period pass on its clock, and changes nothing else. -/
theorem issueWrite_issues_one (id : RegisterId) (data : Payload) (hnow : s.cycle ≤ s.host.now) (hr : s.reads = 0) :
    ∃ t, issueWrite id data s = .ok t ∧ t.host = { s.host with now := s.host.now + 1 } ∧
      (∀ c, writesAt c t = writesAt c s ++
        if c = s.host.now then [⟨busAddress s.config.deviceChannel id, data⟩] else []) ∧
      onlyWritesAdded s t := by
  rcases issueWrite_cases id data s with ⟨hblocked, -⟩ | ⟨hpast, -, -⟩ | ⟨hpresent, -, hok⟩ | ⟨hahead, -, hok⟩
  · exact absurd hr hblocked
  · exact absurd hpast hnow.not_gt
  · refine ⟨_, hok, rfl, fun c => ?_, rfl, fun _ => rfl⟩
    rw [hpresent]
    exact writesAt_addPortWrite _ _ c
  · exact ⟨_, hok, rfl, writesAt_addEnvWrite _ _ hahead, rfl, addEnvWrite_rest _ _ s.env⟩

/-- R133: a host that is not blocked answers RangeError to a request that is out of range. -/
theorem hostPrepare_rangeError {samples periodNs : Nat} (hr : s.reads = 0)
    (h : requestInRange samples periodNs = false) : hostPrepare samples periodNs s = .error .rangeError := by
  simp [hostPrepare, unlessBlocked_free _ hr, h]

/-- R138: `sample` triggers nothing when its `prepare` is turned down. -/
theorem hostSample_error {samples periodNs : Nat} {e : HostError} (h : hostPrepare samples periodNs s = .error e) :
    hostSample samples periodNs s = .error e := by
  rw [hostSample, h]
  rfl

end

theorem requestInRange_eq_false_iff (samples periodNs : Nat) :
    requestInRange samples periodNs = false ↔ samples = 0 ∨ maxSampleCount < samples ∨ periodNs < minPeriodNs := by
  rw [← Bool.not_eq_true, requestInRange_iff]
  omega

/-- R134 with the numbers of the spec: the quantum of 8 ns and the 103 quanta of the minimum period. -/
theorem timeoutOfPeriod_eq (periodNs : Nat) : timeoutOfPeriod periodNs = periodNs / 8 - 103 := rfl

/-- Two codes for each word of the buffer. -/
theorem hostDecode_length (order : PairOrder) (words : List Word) :
    (hostDecode order words).length = 2 * words.length := by
  simp [hostDecode, assignChannels_length, List.length_flatMap, Nat.mul_comm]

/-- Entry `i` is code `i % 2` of word `i / 2`, for channel `i % 8`. -/
theorem hostDecode_get (order : PairOrder) (words : List Word) (i : Nat) :
    (hostDecode order words)[i]? =
      (words[i / 2]?.bind fun w => (unpackPair order w)[i % 2]?).map fun code => (i % channelCount, rawCode code) := by
  rw [hostDecode, assignChannels_get, unpackPair_get, Nat.zero_add]

/-- Settles O54: WR_TRIGGER is one issued write. -/
theorem triggerIssuesOneWrite : Obligations.TriggerIssuesOneWrite :=
  fun _ hnow hr => issueWrite_issues_one 0x00 0x0001 hnow hr

/-- Settles O58: each entry is read off the code and the word it comes from. -/
theorem decodeAssignsChannelsRoundRobin : Obligations.DecodeAssignsChannelsRoundRobin := by
  refine fun order words => ⟨hostDecode_length order words, fun i entry hentry => ?_⟩
  rw [hostDecode_get, Option.map_eq_some_iff] at hentry
  obtain ⟨code, hcode, rfl⟩ := hentry
  obtain ⟨w, hw, hhalf⟩ := Option.bind_eq_some_iff.mp hcode
  exact ⟨rfl, w, hw, by rw [hhalf, Option.map_some]⟩

/-- Settles O50: the range check comes before any write, and `sample` goes through `prepare`. -/
theorem invalidRequestIssuesNothing : Obligations.InvalidRequestIssuesNothing := by
  intro s samples periodNs hr hrange
  have hprepare := hostPrepare_rangeError hr ((requestInRange_eq_false_iff samples periodNs).mpr hrange)
  exact ⟨hprepare, hostSample_error hprepare⟩

/-- Settles O51: from 824 ns up the period holds at least the 103 quanta that are subtracted. -/
theorem timeoutIsThePeriodBeyondTheMinimum : Obligations.TimeoutIsThePeriodBeyondTheMinimum := by
  refine ⟨fun periodNs hmin => ?_, rfl⟩
  have hquanta : 103 ≤ periodNs / 8 := by omega
  rw [timeoutOfPeriod_eq]
  omega

end Sys2Proof.Machine
end

section
/-! The decoder and the encoder are inverse to each other (spec/30_encoding.md R72), and what an id and a bus address
select (R60-R62). -/

namespace Sys2Proof

/-- The bytes of a write with a reserved id decode to the row the id lies in. -/
theorem decode_writeBytes_reserved {id : RegisterId} {data : Payload} {i : Instr} (h : 3 ≤ id.toNat)
    (hrow : reservedRow id data = i) : decode (writeBytes id data) = .ok i := by
  rw [decode_writeBytes, decodeWrite_reservedRow id data h, hrow]

/-- Settles O1: the writes of one id decode by their id, and a well-formed reserved write carries an id of its row. -/
theorem decodeOfEncodeIsTheInstruction : Obligations.DecodeOfEncodeIsTheInstruction := by
  intro i h
  cases i with
  | wrTrigger data => exact decode_writeBytes 0x00 data
  | wrTimeout data => exact decode_writeBytes 0x01 data
  | wrCount data => exact decode_writeBytes 0x02 data
  | wrReserved03 data => exact decode_writeBytes 0x03 data
  | rdWord => rfl
  | _ =>
    simp only [Instr.wellFormed, idInRow_04, idInRow_08, idInRow_10, idInRow_20, idInRow_40, idInRow_80,
      decide_eq_true_eq] at h
    exact decode_writeBytes_reserved (by omega) (by simp (disch := omega) only [reservedRow, if_pos, if_neg])

/-- Under R8's map a decoded write is well formed and packs to the bytes of its id and payload. -/
theorem decodeWrite_interfaceListing_spec (id : RegisterId) (data : Payload) :
    (decodeWrite AddrMap.interfaceListing id data).wellFormed = true ∧
      encode (decodeWrite AddrMap.interfaceListing id data) = writeBytes id data := by
  by_cases h0 : id = 0x00
  · subst h0; exact ⟨rfl, rfl⟩
  by_cases h1 : id = 0x01
  · subst h1; exact ⟨rfl, rfl⟩
  by_cases h2 : id = 0x02
  · subst h2; exact ⟨rfl, rfl⟩
  have h : 3 ≤ id.toNat := by bv_omega
  rw [decodeWrite_reservedRow id data h]
  exact reservedRow_spec id data h

/-- What decodes is a read's no bytes or a write's three. -/
theorem decode_ok_cases {bytes : List Byte} {i : Instr} (h : decode bytes = .ok i) :
    (bytes = [] ∧ i = .rdWord) ∨
      ∃ low high id, bytes = [low, high, id] ∧ i = decodeWrite AddrMap.interfaceListing id (high ++ low) := by
  unfold decode at h
  split at h
  · exact .inl ⟨rfl, (Except.ok.inj h).symm⟩
  · exact .inr ⟨_, _, _, rfl, (Except.ok.inj h).symm⟩
  · cases h

theorem decode_badLength {bytes : List Byte} (h0 : bytes.length ≠ 0) (h3 : bytes.length ≠ 3) :
    decode bytes = .error (.badLength bytes.length) := by
  unfold decode
  split
  · exact absurd rfl h0
  · exact absurd rfl h3
  · rfl

/-- Settles O2: what decodes has a read's bytes or a write's, and a decoded write packs to its bytes. -/
theorem encodeOfDecodeIsTheBytes : Obligations.EncodeOfDecodeIsTheBytes := by
  refine ⟨fun bytes i h => ?_, fun bytes h0 h3 => decode_badLength h0 h3⟩
  obtain ⟨rfl, rfl⟩ | ⟨low, high, id, rfl, rfl⟩ := decode_ok_cases h
  · exact ⟨rfl, rfl⟩
  · obtain ⟨hwf, hbytes⟩ := decodeWrite_interfaceListing_spec id (high ++ low)
    exact ⟨hwf, by rw [hbytes, writeBytes, low_of_append, high_of_append]⟩

/-- Settles O3: seven closed words, decoded. -/
theorem wordsOfTheSpecDecode : Obligations.WordsOfTheSpecDecode := by
  refine ⟨?_, ?_, ?_, ?_, ?_, ?_, ?_⟩ <;> decide

/-- An id has a bit of [7:3] set exactly from 8 up. -/
theorem highIdBits_eq_zero_iff (id : RegisterId) : id.extractLsb' 3 5 = 0 ↔ id.toNat < 8 := by
  revert id; decide

/-- R62: an id from 8 up is reserved under every map. -/
theorem regTarget_of_ge (m : AddrMap) {id : RegisterId} (h : 8 ≤ id.toNat) : regTarget m id = .reserved := by
  rw [regTarget, if_pos (mt (highIdBits_eq_zero_iff id).mp h.not_gt)]

/-- R62: an id below 8 selects by its bits [2:0]. -/
theorem regTarget_of_lt (m : AddrMap) {id : RegisterId} (h : id.toNat < 8) :
    regTarget m id = m.lookup (id.extractLsb' 0 3) := by
  rw [regTarget, if_neg (not_not_intro ((highIdBits_eq_zero_iff id).mpr h))]

/-- Settles O4: the bits [7:3] decide, and under R8's map the id's value. -/
theorem registerIdSelectsTheRegister : Obligations.RegisterIdSelectsTheRegister := by
  refine ⟨fun m _ h => regTarget_of_ge m h, fun m _ h => regTarget_of_lt m h, rfl, rfl, rfl, fun id h => ?_⟩
  rw [regTarget_interfaceListing, if_neg (by rintro rfl; simp at h), if_neg (by rintro rfl; simp at h),
    if_neg (by rintro rfl; simp at h)]

namespace Machine

/-- A bus write that is a transaction stands on this block's channel and is what its id and payload decode to. -/
theorem decodeBus_eq_some_iff {c : Config} {w : BusWrite} {i : Instr} :
    decodeBus c w = some i ↔
      deviceChannel w.addr = c.deviceChannel ∧ decodeWrite c.addrMap (registerId w.addr) w.data = i := by
  simp [decodeBus]

/-- R61: a write on another channel is no transaction of this block. -/
theorem decodeBus_eq_none_iff {c : Config} {w : BusWrite} :
    decodeBus c w = none ↔ deviceChannel w.addr ≠ c.deviceChannel := by
  simp [decodeBus]

/-- Settles O5: the address comes apart into its channel and its id, and no write decodes to the read. -/
theorem busAddressSelectsTheBlock : Obligations.BusAddressSelectsTheBlock := by
  refine ⟨fun c channel id data => ?_, fun c w i hmap hi => ⟨?_, decodeBus_ne_rdWord hi⟩⟩
  · rw [decodeBus, deviceChannel_busAddress, registerId_busAddress]
  · obtain ⟨-, rfl⟩ := decodeBus_eq_some_iff.mp hi
    obtain ⟨hwf, -⟩ := decodeWrite_interfaceListing_spec (registerId w.addr) w.data
    rwa [hmap]

end Machine

end Sys2Proof
end

section
/-! A cycle in terms of the state it starts in: its marks and the writes still at the ports pass through the FSM's step
and the reset (spec/60_exceptions.md R164), so each write's outcome is one equation (spec/40_bus_transactions.md). -/

namespace Sys2Proof.Machine

/-- `s` with some refusals recorded after those it has (R31). -/
def withMarks (more : List Refusal) (s : State) : State :=
  { s with refused := s.refused || !more.isEmpty, refusals := s.refusals ++ more }

/-- `s` with these writes at the ports. -/
def withWrites (writes : List BusWrite) (s : State) : State :=
  { s with ports := { s.ports with writes := writes } }

/-- R130, R163, R164: what the cycle records for a second host's write. -/
def secondHostMarks (s : State) : List Refusal :=
  if s.ports.secondHost then [if s.ports.rst then .writeDuringReset else .secondHost] else []

section

variable (more : List Refusal) (s : State)

@[simp] theorem withMarks_nil : withMarks [] s = s := by
  simp [withMarks]

theorem withMarks_cons (r : Refusal) :
    withMarks (r :: more) s = { s with refused := true, refusals := s.refusals ++ r :: more } := by
  simp [withMarks]

theorem withMarks_withMarks (more' : List Refusal) :
    withMarks more' (withMarks more s) = withMarks (more ++ more') s := by
  cases more <;> simp [withMarks]

@[simp] theorem withMarks_state : (withMarks more s).state = s.state := rfl
@[simp] theorem withMarks_conversionTimeout : (withMarks more s).conversionTimeout = s.conversionTimeout := rfl
@[simp] theorem withMarks_sampleCount : (withMarks more s).sampleCount = s.sampleCount := rfl
@[simp] theorem withMarks_sc : (withMarks more s).sc = s.sc := rfl
@[simp] theorem withMarks_mux : (withMarks more s).mux = s.mux := rfl
@[simp] theorem withMarks_tc : (withMarks more s).tc = s.tc := rfl
@[simp] theorem withMarks_bank : (withMarks more s).bank = s.bank := rfl
@[simp] theorem withMarks_fifo : (withMarks more s).fifo = s.fifo := rfl
@[simp] theorem withMarks_wrT : (withMarks more s).wrT = s.wrT := rfl
@[simp] theorem withMarks_wrN : (withMarks more s).wrN = s.wrN := rfl
@[simp] theorem withMarks_refused : (withMarks more s).refused = (s.refused || !more.isEmpty) := rfl
@[simp] theorem withMarks_refusals : (withMarks more s).refusals = s.refusals ++ more := rfl
@[simp] theorem withMarks_faults : (withMarks more s).faults = s.faults := rfl
@[simp] theorem withMarks_cycle : (withMarks more s).cycle = s.cycle := rfl
@[simp] theorem withMarks_ports : (withMarks more s).ports = s.ports := rfl
@[simp] theorem withMarks_env : (withMarks more s).env = s.env := rfl
@[simp] theorem withMarks_reads : (withMarks more s).reads = s.reads := rfl
@[simp] theorem withMarks_host : (withMarks more s).host = s.host := rfl
@[simp] theorem withMarks_config : (withMarks more s).config = s.config := rfl

theorem raiseRefused_eq_withMarks (r : Refusal) : raiseRefused r s = withMarks [r] s := by
  simp [withMarks_cons, raiseRefused]

theorem markSecondHost_eq_withMarks : markSecondHost s = withMarks (secondHostMarks s) s := by
  unfold markSecondHost secondHostMarks
  cases s.ports.secondHost
  · simp
  · simp [raiseRefused_eq_withMarks]

theorem fsmStep_withMarks (trig : Bool) : fsmStep trig (withMarks more s) = withMarks more (fsmStep trig s) := by
  have h : withMarks more s =
      withOutside (s.refused || !more.isEmpty) (s.refusals ++ more) s.reads s.ports.writes s := rfl
  rw [h, fsmStep_withOutside]
  simp [withMarks, withOutside]

theorem fsmStep_withWrites (writes : List BusWrite) (trig : Bool) :
    fsmStep trig (withWrites writes s) = withWrites writes (fsmStep trig s) := by
  have h : withWrites writes s = withOutside s.refused s.refusals s.reads writes s := rfl
  rw [h, fsmStep_withOutside]
  simp [withWrites, withOutside]

/-- R31, R164: the marks pass unchanged through the clock edge, a reset included. -/
theorem clockEdge_withMarks (trig : Bool) : clockEdge trig (withMarks more s) = withMarks more (clockEdge trig s) := by
  simp only [clockEdge, withMarks_ports, fsmStep_withMarks]
  split <;> rfl

/-- So do the writes still at the ports. -/
theorem clockEdge_withWrites (writes : List BusWrite) (trig : Bool) :
    clockEdge trig (withWrites writes s) = withWrites writes (clockEdge trig s) := by
  simp only [clockEdge, show (withWrites writes s).ports.rst = s.ports.rst from rfl, fsmStep_withWrites]
  split <;> rfl

theorem endCycle_withMarks : endCycle (withMarks more s) = withMarks more (endCycle s) := rfl

/-- R11: the writes at the ports do not outlast the cycle. -/
theorem endCycle_withWrites (writes : List BusWrite) : endCycle (withWrites writes s) = endCycle s := rfl

theorem clockEdge_of_rst (trig : Bool) (h : s.ports.rst = true) : clockEdge trig s = deviceReset s := by
  simp [clockEdge, h]

theorem clockEdge_of_no_rst (trig : Bool) (h : s.ports.rst = false) : clockEdge trig s = fsmStep trig s := by
  simp [clockEdge, h]

/-- A cycle without a write that takes effect: the clock edge and the second host's mark. -/
theorem quietCycle_eq_withMarks :
    quietCycle s = withMarks (secondHostMarks s) (endCycle (clockEdge false s)) := by
  rw [quietCycle, markSecondHost_eq_withMarks, clockEdge_withMarks, endCycle_withMarks]

/-- R164: a refused write adds its mark, before the second host's, and nothing else. -/
theorem refusedCycle_eq_withMarks (r : Refusal) :
    refusedCycle r s = withMarks (r :: secondHostMarks s) (endCycle (clockEdge false s)) := by
  rw [refusedCycle, quietCycle_eq_withMarks, raiseRefused_eq_withMarks, clockEdge_withMarks, endCycle_withMarks,
    withMarks_withMarks]
  rfl

theorem quietCycle_withWrites (writes : List BusWrite) : quietCycle (withWrites writes s) = quietCycle s := by
  rw [quietCycle_eq_withMarks, clockEdge_withWrites, endCycle_withWrites, quietCycle_eq_withMarks]
  rfl

theorem refusedCycle_withWrites (r : Refusal) (writes : List BusWrite) :
    refusedCycle r (withWrites writes s) = refusedCycle r s :=
  quietCycle_withWrites (raiseRefused r s) writes

end

section

variable {s : State}

/-- R81, R101: an admitted trigger's cycle. -/
theorem triggerCycle_of_admitted {data : Payload} (h : triggerRefusal data s = none) :
    triggerCycle s = endCycle { s with sc := 0, state := .startAcquire } := by
  obtain ⟨hrst, halone, -, hidle, -⟩ := (triggerRefusal_none_iff s data).mp h
  rw [triggerCycle, markSecondHost_of_not s (anotherWriteLands_secondHost s halone), clockEdge_of_no_rst s true hrst,
    fsmStep_idle s true hidle, fsmIdle, if_pos rfl]

/-- R80: a cycle in which a configuration write is admitted is Idle's, without reset and without a second host. -/
theorem clockEdge_of_config_admitted (h : configRefusal s = none) : clockEdge false (markSecondHost s) = s := by
  obtain ⟨hrst, halone, hidle⟩ := (configRefusal_none_iff s).mp h
  rw [markSecondHost_of_not s (anotherWriteLands_secondHost s halone), clockEdge_idle_of_no_trigger hidle hrst]

/-- R82: an admitted WR_TIMEOUT's cycle. -/
theorem timeoutCycle_of_admitted (data : Payload) (h : configRefusal s = none) :
    timeoutCycle data s = endCycle (storeTimeout data s) := by
  rw [timeoutCycle, clockEdge_of_config_admitted h]

/-- R83: an admitted WR_COUNT's cycle. -/
theorem countCycle_of_admitted (data : Payload) (h : configRefusal s = none) :
    countCycle data s = endCycle (storeCount data s) := by
  rw [countCycle, clockEdge_of_config_admitted h]

theorem commonRefusal_of_rst (h : s.ports.rst = true) : commonRefusal s = some .writeDuringReset := by
  simp [commonRefusal, h]

theorem commonRefusal_of_collision (hr : s.ports.rst = false) (h : anotherWriteLands s = true) :
    commonRefusal s = some .writeCollision := by
  simp [commonRefusal, hr, h]

end

/-- R80, R81, R84: the first check a write fails; a reserved write always fails one. -/
def writeRefusal (i : Instr) (s : State) : Option Refusal :=
  match i with
  | .wrTrigger data => triggerRefusal data s
  | .wrTimeout _ => configRefusal s
  | .wrCount _ => configRefusal s
  | _ => some (reservedRefusal s)

/-- R81, R82, R83: what a write that passes every check does to the block in its cycle. -/
def admittedWrite (i : Instr) (s : State) : State :=
  match i with
  | .wrTrigger _ => { s with sc := 0, state := .startAcquire }
  | .wrTimeout data => storeTimeout data s
  | .wrCount data => storeCount data s
  | _ => s

section

variable {s : State} {i : Instr}

/-- A write that fails a check is refused under that check's name. -/
theorem exec_of_refused {r : Refusal} (hi : i ≠ .rdWord) (h : writeRefusal i s = some r) :
    exec i s = .next (refusedCycle r s) := by
  cases i with
  | wrTrigger data =>
    replace h : triggerRefusal data s = some r := h
    simp only [exec, execWrTrigger, h]
  | wrTimeout data =>
    replace h : configRefusal s = some r := h
    simp only [exec, execWrTimeout, h]
  | wrCount data =>
    replace h : configRefusal s = some r := h
    simp only [exec, execWrCount, h]
  | rdWord => exact absurd rfl hi
  | _ => cases h; rfl

/-- A write that passes every check is done in Idle's cycle. -/
theorem exec_of_admitted (h : writeRefusal i s = none) : exec i s = .next (endCycle (admittedWrite i s)) := by
  cases i with
  | wrTrigger data =>
    replace h : triggerRefusal data s = none := h
    simp only [exec, execWrTrigger, h, triggerCycle_of_admitted h, admittedWrite]
  | wrTimeout data =>
    replace h : configRefusal s = none := h
    simp only [exec, execWrTimeout, h, timeoutCycle_of_admitted data h, admittedWrite]
  | wrCount data =>
    replace h : configRefusal s = none := h
    simp only [exec, execWrCount, h, countCycle_of_admitted data h, admittedWrite]
  | _ => cases h

/-- R80: the checks that come before the register id refuse every write alike. -/
theorem writeRefusal_of_common {r : Refusal} (h : commonRefusal s = some r) : writeRefusal i s = some r := by
  cases i with
  | wrTrigger data => simp only [writeRefusal, triggerRefusal, h]
  | wrTimeout data => simp only [writeRefusal, configRefusal, h]
  | wrCount data => simp only [writeRefusal, configRefusal, h]
  | _ => simp only [writeRefusal, reservedRefusal, h, Option.getD_some]

theorem ne_rdWord_of_mem_allWrites {id : RegisterId} {data : Payload} (h : i ∈ allWrites id data) : i ≠ .rdWord := by
  rintro rfl
  simp [allWrites, reservedWrites] at h

/-- R84: the seven reserved rows have one meaning. -/
theorem exec_reserved {id : RegisterId} {data : Payload} (hi : i ∈ reservedWrites id data) :
    exec i s = .next (reservedCycle s) := by
  simp only [reservedWrites, List.mem_cons, List.not_mem_nil, or_false] at hi
  rcases hi with rfl | rfl | rfl | rfl | rfl | rfl | rfl <;> rfl

end

/-- Settles O13: `endCycle` with the environment's head taken apart. -/
theorem endOfCycleBringsTheNextInputs : Obligations.EndOfCycleBringsTheNextInputs := by
  refine ⟨fun s e es henv => ?_, fun s henv => ?_⟩
  · simp only [endCycle, nextEnv, henv, List.headD_cons, List.tail_cons, EnvCycle.toPorts]
    cases e.adc <;> rfl
  · simp [endCycle, nextEnv, henv, EnvCycle.toPorts, EnvCycle.quiet]

/-- Settles O14: the premises are the trigger's checks. -/
theorem admittedTriggerStartsTheBurst : Obligations.AdmittedTriggerStartsTheBurst := by
  intro s hrst halone hidle hwrT hwrN hmin hmax
  exact ⟨by simp [adcStart, hidle],
    exec_of_admitted (i := .wrTrigger 0x0001)
      ((triggerRefusal_none_iff s 0x0001).mpr ⟨hrst, halone, rfl, hidle, hwrT, hwrN, hmin, hmax⟩)⟩

/-- Settles O15: once no other check fails first, the chain of the statement is the trigger's own. -/
theorem unadmittedTriggerIsMarked : Obligations.UnadmittedTriggerIsMarked := by
  intro s data name hrst halone hname
  have hcommon : commonRefusal s = none := (commonRefusal_none_iff s).mpr ⟨hrst, halone⟩
  have hrange : sampleCountInRange s = false ↔ s.sampleCount.toNat = 0 ∨ 1024 < s.sampleCount.toNat := by
    rw [← Bool.not_eq_true, sampleCountInRange_iff, maxSampleCount]
    omega
  have hrefusal : writeRefusal (.wrTrigger data) s = some name := by
    simpa only [writeRefusal, triggerRefusal, hcommon, Bool.not_eq_true', Bool.and_eq_false_iff, hrange] using hname
  rw [exec_of_refused Instr.noConfusion hrefusal, refusedCycle_eq name s hrst (anotherWriteLands_secondHost s halone)]

/-- Settles O16: the premises are a configuration write's checks. -/
theorem timeoutWriteStoresThePayload : Obligations.TimeoutWriteStoresThePayload :=
  fun s data hrst halone hidle =>
    exec_of_admitted (i := .wrTimeout data) ((configRefusal_none_iff s).mpr ⟨hrst, halone, hidle⟩)

/-- Settles O17: the premises are a configuration write's checks. -/
theorem countWriteStoresThePayload : Obligations.CountWriteStoresThePayload :=
  fun s data hrst halone hidle =>
    exec_of_admitted (i := .wrCount data) ((configRefusal_none_iff s).mpr ⟨hrst, halone, hidle⟩)

/-- Settles O18: with no common refusal, the state is what a configuration write is refused for. -/
theorem configWriteWhileBusyIsMarked : Obligations.ConfigWriteWhileBusyIsMarked := by
  intro s data i hi hrst halone hbusy
  have hrefusal : configRefusal s = some .configWhileBusy := by
    simp only [configRefusal, (commonRefusal_none_iff s).mpr ⟨hrst, halone⟩, if_neg hbusy]
  rw [← refusedCycle_eq _ s hrst (anotherWriteLands_secondHost s halone)]
  rcases hi with rfl | rfl
  · exact exec_of_refused Instr.noConfusion hrefusal
  · exact exec_of_refused Instr.noConfusion hrefusal

/-- Settles O19: with no common refusal, a reserved write is refused for its register. -/
theorem reservedWriteIsMarked : Obligations.ReservedWriteIsMarked := by
  intro s id data hrst halone i hi
  rw [exec_reserved hi, reservedCycle, reservedRefusal, (commonRefusal_none_iff s).mpr ⟨hrst, halone⟩,
    Option.getD_none, refusedCycle_eq _ s hrst (anotherWriteLands_secondHost s halone)]

/-- Settles O20: the collision is a common refusal, and the second host's mark follows the write's. -/
theorem collidingWriteIsMarked : Obligations.CollidingWriteIsMarked := by
  intro s id data hrst hcollides i hi
  have hrefusal : writeRefusal i s = some .writeCollision :=
    writeRefusal_of_common (commonRefusal_of_collision hrst hcollides)
  rw [exec_of_refused (ne_rdWord_of_mem_allWrites hi) hrefusal, refusedCycle_eq_withMarks, withMarks_cons,
    clockEdge_of_no_rst s false hrst]
  simp [secondHostMarks, hrst]

/-- Settles O21: the reset is the first common refusal, and the clock edge resets the block. -/
theorem writeDuringResetIsMarked : Obligations.WriteDuringResetIsMarked := by
  intro s id data hrst i hi
  have hrefusal : writeRefusal i s = some .writeDuringReset := writeRefusal_of_common (commonRefusal_of_rst hrst)
  rw [exec_of_refused (ne_rdWord_of_mem_allWrites hi) hrefusal, refusedCycle_eq_withMarks, withMarks_cons,
    clockEdge_of_rst s false hrst]
  simp [secondHostMarks, hrst]

/-- Settles O22: without a write of its host the block's cycle is quiet but for the second host's mark. -/
theorem secondHostIsMarked : Obligations.SecondHostIsMarked := by
  intro s hrst hsecond hread hforeign
  rw [step_quiet s hread (fetchWrite_foreign s hforeign), quietCycle_eq_withMarks, clockEdge_of_no_rst s false hrst]
  simp [secondHostMarks, hrst, hsecond, withMarks_cons]

/-- Settles O24: with a word in the FIFO the read pops it. -/
theorem readReturnsTheOldestWord : Obligations.ReadReturnsTheOldestWord := by
  intro s w rest hfifo
  simp only [exec, execRdWord, hfifo]
  rfl

/-- Settles O25: on an empty FIFO the read is kept, which the FSM's step does not see. -/
theorem readOnEmptyFifoBlocks : Obligations.ReadOnEmptyFifoBlocks := by
  intro s hfifo hrst hsecond
  have hkeep : keepRead s = withOutside s.refused s.refusals (s.reads + 1) s.ports.writes s := rfl
  simp only [exec, execRdWord, hfifo]
  rw [quietCycle_eq (keepRead s) hrst hsecond, hkeep, fsmStep_withOutside]
  simp [withOutside, endCycle, nextEnv]

end Sys2Proof.Machine
end

section
/-! What an FSM step does to the FIFO and the faults (spec/20_memory.md section 4), and with it what the writes leave
unchanged. -/

namespace Sys2Proof.Machine

section

variable {s t : State} {trig : Bool}

/-- R107, R112: an FSM step leaves the FIFO and the faults, or it is a Reading cycle, which with room appends
`word(mux)` and without room records a fault. -/
theorem FsmMove.fifo_faults_cases (h : FsmMove trig s t) :
    (t.fifo = s.fifo ∧ t.faults = s.faults) ∨
      (s.state = .reading ∧ s.fifo.length < s.config.fifoDepth ∧
        t.fifo = s.fifo ++ [muxWord s.config.pairOrder s.bank s.mux] ∧ t.faults = s.faults) ∨
      (s.state = .reading ∧ s.config.fifoDepth ≤ s.fifo.length ∧ t.fifo = s.fifo ∧
        t.faults = s.faults ++ [.fifoOverflow s.cycle s.sc s.mux]) := by
  cases h with
  | idleTrigger _ _ => exact .inl ⟨rfl, rfl⟩
  | idleStay _ _ => exact .inl ⟨rfl, rfl⟩
  | start _ => exact .inl ⟨rfl, rfl⟩
  | capture _ _ => exact .inl ⟨rfl, rfl⟩
  | acquire _ _ => exact .inl ⟨rfl, rfl⟩
  | readNext hreading _ =>
    rcases pushWord_cases s (muxWord s.config.pairOrder s.bank s.mux) with ⟨hroom, hpush⟩ | ⟨hfull, hpush⟩
    · exact .inr (.inl ⟨hreading, hroom, by simp [hpush]⟩)
    · exact .inr (.inr ⟨hreading, hfull, by simp [hpush]⟩)
  | readLast hreading _ =>
    rcases pushWord_cases s (muxWord s.config.pairOrder s.bank s.mux) with ⟨hroom, hpush⟩ | ⟨hfull, hpush⟩
    · exact .inr (.inl ⟨hreading, hroom, by simp [hpush]⟩)
    · exact .inr (.inr ⟨hreading, hfull, by simp [hpush]⟩)
  | waitZeroEnd _ _ _ => exact .inl ⟨rfl, rfl⟩
  | waitZero _ _ _ => exact .inl ⟨rfl, rfl⟩
  | waitOneEnd _ _ _ => exact .inl ⟨rfl, rfl⟩
  | waitOne _ _ _ => exact .inl ⟨rfl, rfl⟩

theorem FsmMove.fifo_extends (h : FsmMove trig s t) : ∃ more, t.fifo = s.fifo ++ more := by
  rcases h.fifo_faults_cases with ⟨hfifo, -⟩ | ⟨-, -, hfifo, -⟩ | ⟨-, -, hfifo, -⟩
  · exact ⟨[], by simp [hfifo]⟩
  · exact ⟨_, hfifo⟩
  · exact ⟨[], by simp [hfifo]⟩

theorem FsmMove.faults_extend (h : FsmMove trig s t) : ∃ more, t.faults = s.faults ++ more := by
  rcases h.fifo_faults_cases with ⟨-, hfaults⟩ | ⟨-, -, -, hfaults⟩ | ⟨-, -, -, hfaults⟩
  · exact ⟨[], by simp [hfaults]⟩
  · exact ⟨[], by simp [hfaults]⟩
  · exact ⟨_, hfaults⟩

end

/-- Settles O23: a refused write's cycle is the FSM's step, an admitted one's happens in Idle and sets its own register
or starts the burst. -/
theorem writesLeaveTheRestUnchanged : Obligations.WritesLeaveTheRestUnchanged := by
  intro s t id data i hi hrst hexec
  cases exec_move hexec with
  | pop w rest hread _ => exact absurd hread (ne_rdWord_of_mem_allWrites hi)
  | blocked hread _ => exact absurd hread (ne_rdWord_of_mem_allWrites hi)
  | refused r _ =>
    have hmove := fsmStep_moves s false
    rw [refusedCycle_eq_withMarks, clockEdge_of_no_rst s false hrst]
    simp [hmove.fifo_extends, hmove.faults_extend]
  | trigger data' hd hadmitted =>
    subst hd
    obtain rfl : data' = data := by simpa [allWrites, reservedWrites] using hi
    obtain ⟨-, -, -, hidle, -⟩ := (triggerRefusal_none_iff s data').mp hadmitted
    simp [triggerCycle_of_admitted hadmitted, hidle]
  | timeout data' hd hadmitted =>
    subst hd
    obtain rfl : data' = data := by simpa [allWrites, reservedWrites] using hi
    obtain ⟨-, -, hidle⟩ := (configRefusal_none_iff s).mp hadmitted
    simp [timeoutCycle_of_admitted data' hadmitted, fsmStep_idle_of_no_trigger hidle]
  | count data' hd hadmitted =>
    subst hd
    obtain rfl : data' = data := by simpa [allWrites, reservedWrites] using hi
    obtain ⟨-, -, hidle⟩ := (configRefusal_none_iff s).mp hadmitted
    simp [countCycle_of_admitted data' hadmitted, fsmStep_idle_of_no_trigger hidle]

end Sys2Proof.Machine
end

section
/-! Which transaction a step runs (spec/30_encoding.md R61, spec/40_bus_transactions.md R85): a step sees of the writes
at the ports only those that are transactions of this block. -/

namespace Sys2Proof.Machine

/-- The writes of a cycle that are transactions of this block (R61), in their order. -/
def ownWrites (c : Config) (writes : List BusWrite) : List Instr :=
  writes.filterMap (decodeBus c)

section

variable {s : State}

/-- `takeWrite` takes the first of them and leaves the others. -/
theorem takeWrite_cases (c : Config) (writes : List BusWrite) :
    (takeWrite c writes = none ∧ ownWrites c writes = []) ∨
      ∃ i rest, takeWrite c writes = some (i, rest) ∧ ownWrites c writes = i :: ownWrites c rest := by
  induction writes with
  | nil => exact .inl ⟨rfl, rfl⟩
  | cons w writes ih =>
    cases hw : decodeBus c w with
    | none => simpa only [takeWrite, ownWrites, hw, List.filterMap_cons] using ih
    | some i => exact .inr ⟨i, writes, by simp [takeWrite, hw], by simp [ownWrites, hw]⟩

theorem anotherWriteLands_eq (s : State) :
    anotherWriteLands s = (!(ownWrites s.config s.ports.writes).isEmpty || s.ports.secondHost) := by
  rw [anotherWriteLands, Bool.eq_iff_iff]
  simp [ownWrites, Option.isSome_iff_ne_none]

theorem fetchWrite_of_takeWrite {i : Instr} {rest : List BusWrite}
    (h : takeWrite s.config s.ports.writes = some (i, rest)) : fetchWrite s = some (i, withWrites rest s) := by
  rw [fetchWrite, h]
  rfl

/-- A landed write is run unless a read is answered first. -/
theorem step_of_fetch {i : Instr} {s' : State} (hread : readReady s = false) (h : fetchWrite s = some (i, s')) :
    step s = exec i s' := by
  simp [step, hread, h]

theorem readReady_iff : readReady s = true ↔ s.reads ≠ 0 ∧ s.fifo ≠ [] := by
  simp [readReady]

/-- R80, R86: of the writes still at the ports the checks see only those of this block. -/
theorem writeRefusal_withWrites (i : Instr) {writes writes' : List BusWrite}
    (h : ownWrites s.config writes = ownWrites s.config writes') :
    writeRefusal i (withWrites writes s) = writeRefusal i (withWrites writes' s) := by
  have hcommon : commonRefusal (withWrites writes s) = commonRefusal (withWrites writes' s) := by
    simp only [commonRefusal, anotherWriteLands_eq, withWrites, h]
  cases i with
  | wrTrigger data => rw [writeRefusal, writeRefusal, triggerRefusal, hcommon]; rfl
  | wrTimeout data => rw [writeRefusal, writeRefusal, configRefusal, hcommon]; rfl
  | wrCount data => rw [writeRefusal, writeRefusal, configRefusal, hcommon]; rfl
  | _ => simp only [writeRefusal, reservedRefusal, hcommon]

theorem admittedWrite_withWrites (i : Instr) (writes : List BusWrite) :
    endCycle (admittedWrite i (withWrites writes s)) = endCycle (admittedWrite i s) := by
  cases i <;> rfl

theorem exec_withWrites {i : Instr} (hi : i ≠ .rdWord) {writes writes' : List BusWrite}
    (h : ownWrites s.config writes = ownWrites s.config writes') :
    exec i (withWrites writes s) = exec i (withWrites writes' s) := by
  have hsame := writeRefusal_withWrites i h
  cases hr : writeRefusal i (withWrites writes s) with
  | some r =>
    rw [exec_of_refused hi hr, exec_of_refused hi (hsame ▸ hr), refusedCycle_withWrites, refusedCycle_withWrites]
  | none =>
    rw [exec_of_admitted hr, exec_of_admitted (hsame ▸ hr), admittedWrite_withWrites, admittedWrite_withWrites]

/-- R61: a step that answers no read depends on the writes at the ports only through those of this block. -/
theorem step_withWrites (hread : readReady s = false) {writes writes' : List BusWrite}
    (h : ownWrites s.config writes = ownWrites s.config writes') :
    step (withWrites writes s) = step (withWrites writes' s) := by
  rcases takeWrite_cases s.config writes with ⟨hnone, hnil⟩ | ⟨i, rest, hsome, hcons⟩ <;>
    rcases takeWrite_cases s.config writes' with ⟨hnone', hnil'⟩ | ⟨i', rest', hsome', hcons'⟩
  · rw [step_quiet (withWrites writes s) hread (by simp [fetchWrite, withWrites, hnone]),
      step_quiet (withWrites writes' s) hread (by simp [fetchWrite, withWrites, hnone']),
      quietCycle_withWrites, quietCycle_withWrites]
  · simp [hnil, hcons'] at h
  · simp [hcons, hnil'] at h
  · obtain ⟨rfl, hrest⟩ := List.cons.inj (hcons.symm.trans (h.trans hcons'))
    rw [step_of_fetch (s := withWrites writes s) hread (fetchWrite_of_takeWrite hsome),
      step_of_fetch (s := withWrites writes' s) hread (fetchWrite_of_takeWrite hsome')]
    exact exec_withWrites (takeWrite_ne_rdWord hsome) hrest

end

/-- Settles O6: a write to another channel is none of this block's, wherever it stands. -/
theorem otherChannelWriteHasNoEffect : Obligations.OtherChannelWriteHasNoEffect := by
  intro s before after w hw hread
  have hown : ownWrites s.config (before ++ w :: after) = ownWrites s.config (before ++ after) := by
    simp [ownWrites, decodeBus_eq_none_iff.mpr hw]
  exact step_withWrites hread hown

/-- Settles O7: the writes of other channels are passed over. -/
theorem stepRunsTheLandedWrite : Obligations.StepRunsTheLandedWrite := by
  intro s before after w i hread hwrites hbefore hw
  have htake : takeWrite s.config s.ports.writes = some (i, after) := by
    rw [hwrites, takeWrite_append_foreign s.config before _ hbefore, takeWrite, hw]
  exact step_of_fetch hread (fetchWrite_of_takeWrite htake)

/-- Settles O8: whether a read can be answered is looked at before the writes. -/
theorem stepRunsTheHostsRead : Obligations.StepRunsTheHostsRead := by
  refine fun s => ⟨fun hreads hfifo => ?_, fun hreads hfifo hforeign => ?_, fun hreads hforeign => ?_⟩
  · rw [step, if_pos (readReady_iff.mpr ⟨hreads, hfifo⟩)]
  · have hread : readReady s = false := by simp [readReady, hfifo]
    simp [step, hread, fetchWrite_foreign s hforeign, hreads]
  · exact step_quiet s (by simp [readReady, hreads]) (fetchWrite_foreign s hforeign)

theorem bytesOf_length (n : Nat) : ∀ w, (bytesOf n w).length = n := by
  induction n with
  | zero => intro w; rfl
  | succ n ih => intro w; simp [bytesOf, ih]

/-- The two low bytes of a number are its low 16 bits. -/
theorem low_bytes_append (w : Nat) :
    (BitVec.ofNat 8 (w / 256) ++ BitVec.ofNat 8 w : BitVec (8 + 8)) = BitVec.ofNat 16 w := by
  apply BitVec.eq_of_toNat_eq
  rw [BitVec.toNat_append, ← Nat.shiftLeft_add_eq_or_of_lt (by bv_omega)]
  simp only [BitVec.toNat_ofNat, Nat.shiftLeft_eq]
  omega

/-- A table word is a read's, with fewer than 24 bits, or a write's three bytes (R72). -/
theorem decodeTableWord_eq_some {nbits w : Nat} {i : Instr} (h : decodeTableWord nbits w = some i) :
    (nbits < 24 ∧ i = .rdWord) ∨
      (nbits = 24 ∧ i = decodeWrite AddrMap.interfaceListing (BitVec.ofNat 8 (w / 65536)) (BitVec.ofNat 16 w)) := by
  unfold decodeTableWord at h
  split at h
  · cases h
  split at h
  · rename_i hread
    split at h
    · exact .inl ⟨hread, (Option.some.inj h).symm⟩
    · cases h
  · rename_i hwide
    by_cases hbits : nbits = 24
    · refine .inr ⟨hbits, ?_⟩
      subst hbits
      rw [← Option.some.inj h, low_bytes_append, Nat.div_div_eq_div_mul]
    · rw [decode_badLength (by rw [bytesOf_length]; omega) (by rw [bytesOf_length]; omega)] at h
      cases h

/-- A read that is placed is the host's only transaction. -/
theorem step_placeReadNow (s : State) :
    step (placeReadNow s) = exec .rdWord { s with reads := 0, ports := { s.ports with writes := [] } } := by
  obtain ⟨hready, hblocked, -⟩ := stepRunsTheHostsRead (placeReadNow s)
  by_cases hfifo : s.fifo = []
  · exact hblocked Nat.one_ne_zero hfifo (by simp [placeReadNow])
  · exact hready Nat.one_ne_zero hfifo

/-- Settles O9: a placed read is the only transaction, and a placed write is the only one on the bus. -/
theorem placedTransactionRunsNext : Obligations.PlacedTransactionRunsNext := by
  intro s nbits w i hmap hw
  rcases decodeTableWord_eq_some hw with ⟨hbits, rfl⟩ | ⟨rfl, rfl⟩
  · rw [State.withFetchWord, if_pos hbits, step_placeReadNow]
  · rw [State.withFetchWord, if_neg (lt_irrefl _)]
    refine stepRunsTheLandedWrite (placeWriteNow (writeOfTableWord s.config w) s) [] [] _ _ ?_ rfl (by simp) ?_
    · simp [readReady, placeWriteNow]
    · rw [← hmap]
      exact decodeBus_own s.config _ _

/-- Settles O10: the inversions of the step and of a transaction say so. -/
theorem everyStepCompletes : Obligations.EveryStepCompletes := by
  refine ⟨fun s => ?_, fun i s => ?_⟩
  · obtain ⟨t, hstep, -⟩ := step_moves s
    exact ⟨t, hstep⟩
  · obtain ⟨t, hexec, -⟩ := exec_moves i s
    exact ⟨t, hexec⟩

end Sys2Proof.Machine
end

section
/-! The whole machine's step, said once more in terms of the state it starts in, and the rules that hold of every step
(spec/10_state.md, spec/41_fsm.md section 8, spec/20_memory.md sections 4 and 5). -/

namespace Sys2Proof.Machine

/-- A trigger lands in the present cycle and passes all its checks (R81). -/
def TriggerAdmitted (s : State) : Prop :=
  ∃ data s', fetchWrite s = some (.wrTrigger data, s') ∧ triggerRefusal data s' = none

/-- Everything a step can do to `s`: answer a read, reset the block, make an FSM step without the pulse, start a burst,
or store a configuration register. The marks a cycle adds stand in `more`. -/
inductive Transition (s : State) : State → Prop
  | read (w : Word) (rest : List Word) : s.reads ≠ 0 → s.fifo = w :: rest →
      Transition s (popWord w rest (takeRead s))
  | reset (more : List Refusal) : s.ports.rst = true → Transition s (withMarks more (endCycle (deviceReset s)))
  | fsm (more : List Refusal) : s.ports.rst = false → ¬ TriggerAdmitted s →
      Transition s (withMarks more (endCycle (fsmStep false s)))
  | trigger (s' : State) : s.ports.rst = false → s.state = .idle → fetchWrite s = some (.wrTrigger 0x0001, s') →
      triggerRefusal 0x0001 s' = none → Transition s (endCycle { s with sc := 0, state := .startAcquire })
  | timeout (data : Payload) (s' : State) : s.ports.rst = false → s.state = .idle →
      fetchWrite s = some (.wrTimeout data, s') → Transition s (endCycle (storeTimeout data s))
  | count (data : Payload) (s' : State) : s.ports.rst = false → s.state = .idle →
      fetchWrite s = some (.wrCount data, s') → Transition s (endCycle (storeCount data s))

section

variable {s t : State}

/-- A cycle that nothing admitted happens in is a reset or an FSM step, with marks. -/
theorem Transition.of_clockEdge (more : List Refusal) (h : ¬ TriggerAdmitted s) :
    Transition s (withMarks more (endCycle (clockEdge false s))) := by
  cases hrst : s.ports.rst
  · rw [clockEdge_of_no_rst s false hrst]
    exact .fsm more hrst h
  · rw [clockEdge_of_rst s false hrst]
    exact .reset more hrst

/-- The inversion of a landed write's cycle. -/
theorem Transition.of_write {i : Instr} {s' : State} (hfetch : fetchWrite s = some (i, s')) (h : exec i s' = .next t) :
    Transition s t := by
  obtain ⟨hi, writes, -, hs'⟩ := fetchWrite_spec hfetch
  cases hr : writeRefusal i s' with
  | some r =>
    rw [exec_of_refused hi hr] at h
    cases h
    have hnot : ¬ TriggerAdmitted s := by
      rintro ⟨data, s'', hfetch', hnone⟩
      obtain ⟨rfl, rfl⟩ := Prod.mk.inj (Option.some.inj (hfetch.symm.trans hfetch'))
      exact Option.some_ne_none r (hr.symm.trans hnone)
    rw [hs', show ({ s with ports := { s.ports with writes := writes } } : State) = withWrites writes s from rfl,
      refusedCycle_withWrites, refusedCycle_eq_withMarks]
    exact .of_clockEdge _ hnot
  | none =>
    rw [exec_of_admitted hr] at h
    cases h
    have hsame : endCycle (admittedWrite i s') = endCycle (admittedWrite i s) := by
      rw [hs']
      exact admittedWrite_withWrites i writes
    rw [hsame]
    cases i with
    | wrTrigger data =>
      obtain ⟨hrst, -, rfl, hidle, -⟩ := (triggerRefusal_none_iff s' data).mp hr
      subst hs'
      exact .trigger _ hrst hidle hfetch hr
    | wrTimeout data =>
      obtain ⟨hrst, -, hidle⟩ := (configRefusal_none_iff s').mp hr
      subst hs'
      exact .timeout data _ hrst hidle hfetch
    | wrCount data =>
      obtain ⟨hrst, -, hidle⟩ := (configRefusal_none_iff s').mp hr
      subst hs'
      exact .count data _ hrst hidle hfetch
    | _ => cases hr

/-- The inversion of the step. -/
theorem transition_of_step (h : step s = .next t) : Transition s t := by
  cases step_move h with
  | pop w rest hreads hfifo => exact .read w rest hreads hfifo
  | write i s' _ _ hfetch hexec _ => exact .of_write hfetch hexec
  | quiet _ hfetch =>
    rw [quietCycle_eq_withMarks]
    refine .of_clockEdge _ ?_
    rintro ⟨data, s', hsome, -⟩
    rw [hfetch] at hsome
    cases hsome

/-- A step that answers a read is one in which a read could be answered. -/
theorem readReady_of_read {w : Word} {rest : List Word} (hreads : s.reads ≠ 0) (hfifo : s.fifo = w :: rest) :
    readReady s = true :=
  readReady_iff.mpr ⟨hreads, by simp [hfifo]⟩

end

/-- Settles O11: the pulse is there in the step that starts a burst, and a stored register leaves Idle as it is. -/
theorem everyCycleRunsTheFsm : Obligations.EveryCycleRunsTheFsm := by
  intro s t h hrst hread
  cases transition_of_step h with
  | read w rest hreads hfifo => simp [readReady_of_read hreads hfifo] at hread
  | reset more hreset => simp [hrst] at hreset
  | fsm more _ hnot => exact ⟨false, iff_of_false Bool.false_ne_true hnot, rfl, rfl, rfl, rfl, rfl, rfl, rfl⟩
  | trigger s' _ hidle hfetch hnone =>
    exact ⟨true, iff_of_true rfl ⟨_, s', hfetch, hnone⟩, by simp [fsmStep_idle s true hidle, fsmIdle]⟩
  | timeout data s' _ hidle hfetch =>
    exact ⟨false, by simp [hfetch], by simp [fsmStep_idle_of_no_trigger hidle]⟩
  | count data s' _ hidle hfetch =>
    exact ⟨false, by simp [hfetch], by simp [fsmStep_idle_of_no_trigger hidle]⟩

/-- Settles O12: every cycle ends in `endCycle`, which the marks, the FSM and the stores do not change. -/
theorem stepIsOneCycleOrOneRead : Obligations.StepIsOneCycleOrOneRead := by
  intro s t h
  cases transition_of_step h with
  | read w rest hreads hfifo => exact ⟨rfl, .inr ⟨w, rest, hfifo, hreads, rfl⟩⟩
  | reset more _ => exact ⟨rfl, .inl ⟨rfl, rfl, rfl, rfl⟩⟩
  | fsm more _ _ => simp [nextEnv]
  | trigger s' _ _ _ _ => exact ⟨rfl, .inl ⟨rfl, rfl, rfl, rfl⟩⟩
  | timeout data s' _ _ _ => exact ⟨rfl, .inl ⟨rfl, rfl, rfl, rfl⟩⟩
  | count data s' _ _ _ => exact ⟨rfl, .inl ⟨rfl, rfl, rfl, rfl⟩⟩

end Sys2Proof.Machine
end

section
/-! The invariant of spec/41_fsm.md section 8, clause by clause under an FSM step and then under every step. -/

namespace Sys2Proof.Machine

section

variable {s t : State}

/-- R108, R117: below the last sample the index can be counted up. -/
theorem succ_sampleIndex_le (h : busyInvariant s) (hbusy : s.state ≠ .idle) (hlast : lastSample s = false) :
    (s.sc + 1).toNat ≤ s.sampleCount.toNat - 1 := by
  obtain ⟨-, -, -, hmax, hsc⟩ := h hbusy
  have hne : s.sc.toNat ≠ s.sampleCount.toNat - 1 := by simpa [lastSample] using hlast
  rw [maxSampleCount] at hmax
  bv_omega

/-- The branch at the last word keeps the clause of the states other than Idle, in which it is taken. -/
theorem lastWordBranch_busyInvariant (h : busyInvariant s) (hbusy : s.state ≠ .idle) :
    busyInvariant (lastWordBranch s) := by
  obtain ⟨hwrT, hwrN, hmin, hmax, -⟩ := h hbusy
  rcases lastWordBranch_cases s with ⟨-, hbranch⟩ | ⟨hlast, -, hbranch⟩ | ⟨hlast, -, hbranch⟩
  · rw [hbranch]
    exact fun hidle => absurd rfl hidle
  · rw [hbranch]
    exact fun _ => ⟨hwrT, hwrN, hmin, hmax, succ_sampleIndex_le h hbusy hlast⟩
  · rw [hbranch]
    exact fun _ => ⟨hwrT, hwrN, hmin, hmax, succ_sampleIndex_le h hbusy hlast⟩

theorem busyInvariant_of_eq (h : busyInvariant s) (hstate : t.state = .idle ∨ s.state ≠ .idle) (hwrT : t.wrT = s.wrT)
    (hwrN : t.wrN = s.wrN) (hcount : t.sampleCount = s.sampleCount) (hsc : t.sc = s.sc) : busyInvariant t := by
  intro hbusy
  rw [hwrT, hwrN, hcount, hsc]
  exact h (hstate.resolve_left hbusy)

theorem FsmMove.busyInvariant (hm : FsmMove false s t) (h : busyInvariant s) : busyInvariant t := by
  cases hm with
  | idleTrigger _ htrig => cases htrig
  | idleStay _ _ => exact h
  | start hs => exact fun _ => h (by simp [hs])
  | capture hs _ => exact fun _ => h (by simp [hs])
  | acquire _ _ => exact h
  | readNext hs _ =>
    exact busyInvariant_of_eq h (.inr (by simp [hs])) (by simp) (by simp) (by simp) (by simp)
  | readLast hs _ =>
    refine lastWordBranch_busyInvariant ?_ (by simp [hs])
    exact busyInvariant_of_eq h (.inr (by simp [hs])) (by simp) (by simp) (by simp) (by simp)
  | waitZeroEnd hs _ _ => exact fun _ => h (by simp [hs])
  | waitZero hs _ _ => exact fun _ => h (by simp [hs])
  | waitOneEnd hs _ _ => exact fun _ => h (by simp [hs])
  | waitOne hs _ _ => exact fun _ => h (by simp [hs])

/-- R108: the wait is entered with `tc = T`, and `T` is not 0. -/
theorem lastWordBranch_waitInvariant (s : State) : waitInvariant (lastWordBranch s) := by
  intro hwait
  rcases lastWordBranch_cases s with ⟨-, hbranch⟩ | ⟨-, -, hbranch⟩ | ⟨-, hT, hbranch⟩
  · simp [hbranch] at hwait
  · simp [hbranch] at hwait
  · rw [hbranch]
    exact ⟨le_refl _, fun _ => by bv_omega⟩

theorem FsmMove.waitInvariant (hm : FsmMove false s t) (h : waitInvariant s) : waitInvariant t := by
  intro hwait
  cases hm with
  | idleTrigger _ htrig => cases htrig
  | idleStay hs _ => simp [hs] at hwait
  | start _ => cases hwait
  | capture _ _ => cases hwait
  | acquire hs _ => simp [hs] at hwait
  | readNext hs _ => simp [hs] at hwait
  | readLast _ _ => exact lastWordBranch_waitInvariant _ hwait
  | waitZeroEnd _ _ _ => cases hwait
  | waitZero hs hzero ht =>
    obtain ⟨hle, hpos⟩ := h hs
    have := hpos hzero
    exact ⟨by simp only; bv_omega, fun _ => by simp only; bv_omega⟩
  | waitOneEnd _ _ _ => cases hwait
  | waitOne hs hone ht =>
    obtain ⟨hle, -⟩ := h hs
    exact ⟨by simp only; bv_omega, fun hzero => by simp [hone] at hzero⟩

theorem FsmMove.fifoInvariant (hm : FsmMove false s t) (h : fifoInvariant s) : fifoInvariant t := by
  rw [Machine.fifoInvariant, hm.config_eq]
  rcases hm.fifo_faults_cases with ⟨hfifo, -⟩ | ⟨-, hroom, hfifo, -⟩ | ⟨-, -, hfifo, -⟩
  · rwa [hfifo]
  · rw [hfifo, List.length_append]
    exact hroom
  · rwa [hfifo]

/-- Marks only come together with the boolean (R31). -/
theorem markInvariant_withMarks (more : List Refusal) (h : markInvariant s) : markInvariant (withMarks more s) := by
  cases more with
  | nil => simpa using h
  | cons r more => simp [markInvariant, withMarks]

/-- R139: an answered read is one of the transfer's, when a transfer is in progress. -/
theorem transferInvariant_read (w : Word) (rest : List Word) (h : transferInvariant s) :
    transferInvariant (popWord w rest (takeRead s)) := by
  obtain ⟨hreads, hpending⟩ := h
  simp only [transferInvariant, popWord_host, popWord_reads, takeRead_reads, takeRead_host, receive_transferLeft,
    receive_pendingSamples]
  refine ⟨by omega, ?_⟩
  split <;> omega

/-- R31, R139: of what the last two clauses speak of, the end of a cycle changes only the reads, by those issued. -/
theorem outsideInvariant_endCycle (hmark : markInvariant s) (htransfer : transferInvariant s)
    (hrefused : t.refused = s.refused) (hrefusals : t.refusals = s.refusals) (hreads : t.reads = s.reads)
    (hhost : t.host = s.host) : markInvariant (endCycle t) ∧ transferInvariant (endCycle t) := by
  obtain ⟨hleft, hpending⟩ := htransfer
  refine ⟨by simpa [markInvariant, hrefused, hrefusals] using hmark, ?_⟩
  simp only [transferInvariant, endCycle_host, endCycle_reads, hreads, hhost]
  exact ⟨by omega, hpending⟩

end

/-- Settles O38: the clauses on the FSM are kept by each of its moves; Idle, in which the configuration registers are
stored, meets the first two; an admitted trigger has checked what the first one says. -/
theorem stepKeepsTheInvariant : Obligations.StepKeepsTheInvariant := by
  rintro s t ⟨hbusy, hwait, hfifo, hmark, htransfer⟩ h
  cases transition_of_step h with
  | read w rest hreads hf =>
    refine ⟨hbusy, hwait, ?_, hmark, transferInvariant_read w rest htransfer⟩
    rw [fifoInvariant, hf, List.length_cons] at hfifo
    exact Nat.le_of_succ_le hfifo
  | reset more _ =>
    obtain ⟨hmark', htransfer'⟩ :=
      outsideInvariant_endCycle (t := deviceReset s) hmark htransfer rfl rfl rfl rfl
    exact ⟨fun hne => absurd rfl hne, nofun, Nat.zero_le _, markInvariant_withMarks more hmark', htransfer'⟩
  | fsm more _ _ =>
    have hmove := fsmStep_moves s false
    obtain ⟨hmark', htransfer'⟩ :=
      outsideInvariant_endCycle hmark htransfer hmove.refused_eq hmove.refusals_eq hmove.reads_eq hmove.host_eq
    exact ⟨hmove.busyInvariant hbusy, hmove.waitInvariant hwait, hmove.fifoInvariant hfifo,
      markInvariant_withMarks more hmark', htransfer'⟩
  | trigger s' _ _ hfetch hnone =>
    obtain ⟨-, writes, -, rfl⟩ := fetchWrite_spec hfetch
    obtain ⟨-, -, -, -, hwrT, hwrN, hmin, hmax⟩ := (triggerRefusal_none_iff _ _).mp hnone
    exact ⟨fun _ => ⟨hwrT, hwrN, hmin, hmax, Nat.zero_le _⟩, nofun, hfifo,
      outsideInvariant_endCycle hmark htransfer rfl rfl rfl rfl⟩
  | timeout data s' _ hidle _ =>
    refine ⟨fun hne => absurd hidle hne, fun hw => ?_, hfifo, outsideInvariant_endCycle hmark htransfer rfl rfl rfl rfl⟩
    simp [hidle] at hw
  | count data s' _ hidle _ =>
    refine ⟨fun hne => absurd hidle hne, fun hw => ?_, hfifo, outsideInvariant_endCycle hmark htransfer rfl rfl rfl rfl⟩
    simp [hidle] at hw

/-- Settles O39: Idle with nothing recorded and no transfer. -/
theorem resetMeetsTheInvariant : Obligations.ResetMeetsTheInvariant := by
  refine ⟨fun c => ⟨fun hne => absurd rfl hne, nofun, Nat.zero_le _, ?_, Nat.zero_le _, Nat.zero_le _⟩, rfl⟩
  simp [markInvariant, State.resetWith]

end Sys2Proof.Machine
end

section
/-! The rules of the whole machine: marks, how a burst starts, goes on and ends, who changes the configuration, the FIFO
and the end of a run. -/

namespace Sys2Proof.Machine

section

variable {s t : State}

/-- R108: an FSM step leads to Idle by the branch at the last word. -/
theorem FsmMove.state_idle (hm : FsmMove false s t) (hbusy : s.state ≠ .idle) (hidle : t.state = .idle) :
    s.state = .reading ∧ s.mux = 3 ∧ s.sc.toNat = s.sampleCount.toNat - 1 := by
  cases hm with
  | idleTrigger hs _ => exact absurd hs hbusy
  | idleStay hs _ => exact absurd hs hbusy
  | start _ => cases hidle
  | capture _ _ => cases hidle
  | acquire hs _ => exact absurd hidle hbusy
  | readNext hs _ => simp [hs] at hidle
  | readLast hs hmux =>
    refine ⟨hs, hmux, ?_⟩
    rcases lastWordBranch_cases (advanceMux (pushWord (muxWord s.config.pairOrder s.bank s.mux) s)) with
      ⟨hlast, -⟩ | ⟨-, -, hbranch⟩ | ⟨-, -, hbranch⟩
    · simpa [lastSample] using hlast
    · simp [hbranch] at hidle
    · simp [hbranch] at hidle
  | waitZeroEnd _ _ _ => cases hidle
  | waitZero _ _ _ => exact absurd hidle hbusy
  | waitOneEnd _ _ _ => cases hidle
  | waitOne _ _ _ => exact absurd hidle hbusy

/-- R108: ConversionWait is entered by the branch at the last word. -/
theorem FsmMove.state_conversionWait (hm : FsmMove false s t) (hout : s.state ≠ .conversionWait)
    (hwait : t.state = .conversionWait) :
    s.state = .reading ∧ s.mux = 3 ∧ s.sc.toNat ≠ s.sampleCount.toNat - 1 ∧ s.conversionTimeout ≠ 0 ∧
      t.tc = s.conversionTimeout := by
  cases hm with
  | idleTrigger _ htrig => cases htrig
  | idleStay _ _ => exact absurd hwait hout
  | start _ => cases hwait
  | capture _ _ => cases hwait
  | acquire _ _ => exact absurd hwait hout
  | readNext hs _ => simp [hs] at hwait
  | readLast hs hmux =>
    refine ⟨hs, hmux, ?_⟩
    rcases lastWordBranch_cases (advanceMux (pushWord (muxWord s.config.pairOrder s.bank s.mux) s)) with
      ⟨-, hbranch⟩ | ⟨-, -, hbranch⟩ | ⟨hlast, hT, hbranch⟩
    · simp [hbranch] at hwait
    · simp [hbranch] at hwait
    · rw [hbranch]
      exact ⟨by simpa [lastSample] using hlast, by simpa using hT, by simp⟩
  | waitZeroEnd hs _ _ => exact absurd hs hout
  | waitZero hs _ _ => exact absurd hs hout
  | waitOneEnd hs _ _ => exact absurd hs hout
  | waitOne hs _ _ => exact absurd hs hout

/-- R149: a run that has ended has nothing landing on the block in the present cycle. -/
theorem step_of_runEnded (h : runEnded s) : step s = .next (endCycle (clockEdge false s)) := by
  obtain ⟨-, hfifo, ⟨⟨hforeign, hsecond⟩, -⟩, -, -⟩ := h
  rw [step_quiet s (by simp [readReady, hfifo]) (fetchWrite_foreign s hforeign), quietCycle,
    markSecondHost_of_not s hsecond]

/-- What holds of every listed cycle and of a quiet one holds of the coming cycle at each place. -/
theorem forall_getD_env {P : EnvCycle → Prop} (h : ∀ e ∈ s.env, P e) (hquiet : P EnvCycle.quiet) (k : Nat) :
    P (s.env.getD k EnvCycle.quiet) := by
  rw [List.getD_eq_getElem?_getD]
  cases he : s.env[k]? with
  | none => exact hquiet
  | some e => exact h e (List.mem_of_getElem? he)

theorem nextEnv_eq_getD (s : State) : nextEnv s = s.env.getD 0 EnvCycle.quiet := by
  unfold nextEnv
  cases s.env <;> rfl

/-- The cycle that comes next is over after it, and the others are one place nearer. -/
theorem endCycle_env_getD (s : State) (k : Nat) :
    (endCycle s).env.getD k EnvCycle.quiet = s.env.getD (k + 1) EnvCycle.quiet := by
  rw [endCycle_env, List.getD_eq_getElem?_getD, List.getD_eq_getElem?_getD, List.getElem?_tail]

/-- R149: the end of a cycle brings no write and no read that was not listed. -/
theorem runEnded_endCycle (h : runEnded s) (hreads : ∀ e ∈ s.env, e.reads = 0) : runEnded (endCycle s) := by
  obtain ⟨hidle, hfifo, ⟨-, hpending⟩, hnone, hclean⟩ := h
  have hnext := forall_getD_env hpending ⟨by simp [EnvCycle.quiet], rfl⟩ 0
  have hnextReads := forall_getD_env hreads rfl 0
  rw [← nextEnv_eq_getD] at hnext hnextReads
  refine ⟨hidle, hfifo, ⟨hnext, fun e he => hpending e (List.mem_of_mem_tail he)⟩, ?_, hclean⟩
  rw [endCycle_reads, hnone, hnextReads]

/-- A reset leaves an ended run ended, and Idle's FSM step leaves it as it is. -/
theorem runEnded_clockEdge (h : runEnded s) : runEnded (clockEdge false s) := by
  obtain ⟨hidle, hfifo, hnoWrite, hnone, hclean⟩ := h
  cases hrst : s.ports.rst
  · rw [clockEdge_idle_of_no_trigger hidle hrst]
    exact ⟨hidle, hfifo, hnoWrite, hnone, hclean⟩
  · rw [clockEdge_of_rst s false hrst]
    exact ⟨rfl, rfl, hnoWrite, hnone, hclean⟩

end

/-- Settles O40: the marks a cycle adds stand after those there are, and only a Reading cycle adds a fault. -/
theorem marksAreNeverCleared : Obligations.MarksAreNeverCleared := by
  intro s t h
  cases transition_of_step h with
  | read w rest _ _ => simp
  | reset more _ => exact ⟨fun hr => by simp [hr], ⟨[], by simp⟩, more, rfl⟩
  | fsm more _ _ =>
    exact ⟨fun hr => by simp [hr], (fsmStep_moves s false).faults_extend, more, by simp⟩
  | trigger s' _ _ _ _ => simp
  | timeout data s' _ _ _ => simp
  | count data s' _ _ _ => simp

/-- Settles O41: of the transitions from Idle only the admitted trigger's leads to another state. -/
theorem onlyAnAdmittedTriggerLeavesIdle : Obligations.OnlyAnAdmittedTriggerLeavesIdle := by
  intro s t h hidle hleft
  cases transition_of_step h with
  | read w rest _ _ => exact absurd hidle hleft
  | reset more _ => exact absurd rfl hleft
  | fsm more _ _ => exact absurd (by simp [fsmStep_idle_of_no_trigger hidle, hidle]) hleft
  | trigger s' _ _ hfetch hnone => exact ⟨rfl, rfl, s', hfetch, hnone⟩
  | timeout data s' _ _ _ => exact absurd hidle hleft
  | count data s' _ _ _ => exact absurd hidle hleft

/-- Settles O42: of the transitions from a busy state only the reset's and the FSM's own lead to Idle. -/
theorem onlyTheLastWordOrAResetEndsABurst : Obligations.OnlyTheLastWordOrAResetEndsABurst := by
  intro s t h hbusy hidle
  cases transition_of_step h with
  | read w rest _ _ => exact absurd hidle hbusy
  | reset more hrst => exact .inl hrst
  | fsm more _ _ => exact .inr ((fsmStep_moves s false).state_idle hbusy hidle)
  | trigger s' _ hs _ _ => exact absurd hs hbusy
  | timeout data s' _ hs _ => exact absurd hs hbusy
  | count data s' _ hs _ => exact absurd hs hbusy

/-- Settles O43: no transition but the FSM's own leads to ConversionWait. -/
theorem onlyATimeoutEntersTheWait : Obligations.OnlyATimeoutEntersTheWait := by
  intro s t h hout hwait
  cases transition_of_step h with
  | read w rest _ _ => exact absurd hwait hout
  | reset more _ => cases hwait
  | fsm more _ _ => exact (fsmStep_moves s false).state_conversionWait hout hwait
  | trigger s' _ _ _ _ => cases hwait
  | timeout data s' _ _ _ => exact absurd hwait hout
  | count data s' _ _ _ => exact absurd hwait hout

/-- Settles O44: only the two stores and the reset touch the configuration registers and their flags. -/
theorem onlyConfigWritesChangeTheConfig : Obligations.OnlyConfigWritesChangeTheConfig := by
  intro s t h
  cases transition_of_step h with
  | read w rest hreads hfifo => simp [readReady_of_read hreads hfifo]
  | reset more hrst => simp [hrst]
  | fsm more hrst _ => simp [hrst]
  | trigger s' hrst _ _ _ => simp [hrst]
  | timeout data s' hrst hidle hfetch => simp [hrst, hidle, hfetch]
  | count data s' hrst hidle hfetch => simp [hrst, hidle, hfetch]

/-- Settles O45: of an FSM step's moves only a Reading cycle with room touches the FIFO. -/
theorem fifoIsAQueue : Obligations.FifoIsAQueue := by
  intro s t h
  cases transition_of_step h with
  | read w rest _ hfifo => exact .inr (.inl ⟨w, hfifo, rfl⟩)
  | reset more hrst => exact .inl ⟨hrst, rfl⟩
  | fsm more _ _ =>
    rcases (fsmStep_moves s false).fifo_faults_cases with ⟨hfifo, -⟩ | ⟨hs, hroom, hfifo, -⟩ | ⟨-, -, hfifo, -⟩
    · exact .inr (.inr (.inl hfifo))
    · exact .inr (.inr (.inr ⟨hs, hroom, hfifo⟩))
    · exact .inr (.inr (.inl hfifo))
  | trigger s' _ _ _ _ => exact .inr (.inr (.inl rfl))
  | timeout data s' _ _ _ => exact .inr (.inr (.inl rfl))
  | count data s' _ _ _ => exact .inr (.inr (.inl rfl))

/-- Settles O46: neither half of the cycle, its clock edge and its end, makes anything pending. -/
theorem endedRunStaysEnded : Obligations.EndedRunStaysEnded := by
  intro s hended hreads
  refine ⟨_, step_of_runEnded hended, runEnded_endCycle (runEnded_clockEdge hended) ?_, by simp⟩
  simpa using hreads

/-- Settles O47: the quiet cycle's clock edge is the reset, with the second host's mark. -/
theorem deviceResetClearsTheBlock : Obligations.DeviceResetClearsTheBlock := by
  intro s hrst hread hforeign
  refine ⟨_, step_quiet s hread (fetchWrite_foreign s hforeign), ?_⟩
  rw [quietCycle_eq_withMarks, clockEdge_of_rst s false hrst]
  cases hsecond : s.ports.secondHost <;> simp [secondHostMarks, hsecond, hrst, adcStart]

/-- Settles O48: the fields of the state after reset. -/
theorem powerUpLeavesIdle : Obligations.PowerUpLeavesIdle :=
  fun _ => ⟨rfl, rfl, rfl, rfl, rfl, rfl, rfl, rfl, rfl⟩

/-- Settles O49: after a reset cycle the block is Idle with unwritten registers, which is what the trigger is refused
for. -/
theorem triggerAfterResetIsMarked : Obligations.TriggerAfterResetIsMarked := by
  intro s t u hrst hread hstep hrst' halone hexec
  have hreset : t.state = .idle ∧ t.wrT = false := by
    cases transition_of_step hstep with
    | read w rest hreads hfifo => simp [readReady_of_read hreads hfifo] at hread
    | reset more _ => exact ⟨rfl, rfl⟩
    | fsm more hno _ => simp [hno] at hrst
    | trigger s' hno _ _ _ => simp [hno] at hrst
    | timeout data s' hno _ _ => simp [hno] at hrst
    | count data s' hno _ _ => simp [hno] at hrst
  obtain ⟨hidle, hwrT⟩ := hreset
  have hmarked := unadmittedTriggerIsMarked t 0x0001 .configUnwritten hrst' halone (by simp [hidle, hwrT])
  rw [hmarked, fsmStep_idle_of_no_trigger hidle] at hexec
  cases hexec
  exact ⟨hidle, rfl, rfl⟩

end Sys2Proof.Machine
end

section
/-! The FSM's rules, one for each state (spec/41_fsm.md sections 3 to 7), and the words of a bank (spec/20_memory.md
section 2). -/

namespace Sys2Proof.Machine

section

variable {s : State}

theorem fsmReading_of_last (hmux : s.mux = 3) :
    fsmReading s = lastWordBranch (advanceMux (pushWord (muxWord s.config.pairOrder s.bank s.mux) s)) := by
  have hlast : lastWord s = true := by simp [lastWord, hmux]
  simp [fsmReading, hlast]

/-- R108 as one expression. -/
theorem lastWordBranch_eq (s : State) :
    lastWordBranch s =
      if s.sc.toNat = s.sampleCount.toNat - 1 then { s with state := .idle }
      else if s.conversionTimeout = 0 then { s with sc := s.sc + 1, state := .startAcquire }
      else { s with sc := s.sc + 1, tc := s.conversionTimeout, state := .conversionWait } := by
  simp only [lastWordBranch, lastSample, beq_iff_eq]

/-- R110: the wait under `WAIT_OFFSET` 0. -/
theorem fsmConversionWait_zero (h : s.config.waitOffset = .zero) :
    fsmConversionWait s =
      if s.tc - 1 = 0 then { s with tc := s.tc - 1, state := .startAcquire } else { s with tc := s.tc - 1 } := by
  simp only [fsmConversionWait, h]

/-- R111: the wait under `WAIT_OFFSET` 1. -/
theorem fsmConversionWait_one (h : s.config.waitOffset = .one) :
    fsmConversionWait s = if s.tc = 0 then { s with state := .startAcquire } else { s with tc := s.tc - 1 } := by
  simp only [fsmConversionWait, h]

end

/-- Settles O27: R103, and the pulse is the test for StartAcquire. -/
theorem startAcquirePulsesForOneCycle : Obligations.StartAcquirePulsesForOneCycle := by
  refine ⟨fun s hs hstart => ?_, fun s => by simp [adcStart]⟩
  rw [step_noTransaction s hs, fsmStep_startAcquire s false hstart]

/-- Settles O28: R104. -/
theorem completionCapturesTheCodes : Obligations.CompletionCapturesTheCodes := by
  intro s hs hacquiring hdone
  rw [step_noTransaction s hs, fsmStep_acquiring s false hacquiring, fsmAcquiring, if_pos hdone]

/-- Settles O29: R105. -/
theorem acquiringWaitsForCompletion : Obligations.AcquiringWaitsForCompletion := by
  intro s hs hacquiring hdone
  refine ⟨by simp [adcStart, hacquiring], ?_⟩
  rw [step_noTransaction s hs, fsmStep_acquiring s false hacquiring, fsmAcquiring, if_neg (by simp [hdone])]

/-- Settles O31: with room the push appends word 3, and the branch reads what neither the push nor `mux` changes. -/
theorem lastWordBranches : Obligations.LastWordBranches := by
  rintro s pushed hs hreading hmux hroom - rfl
  rw [step_noTransaction s hs, fsmStep_reading s false hreading, fsmReading_of_last hmux, hmux, pushWord_room s _ hroom,
    lastWordBranch_eq, advanceMux, hmux]
  rfl

/-- Settles O32: without room the push records the fault; the rest of the Reading cycle is the same. -/
theorem fullFifoRecordsTheFault : Obligations.FullFifoRecordsTheFault := by
  rintro s faulted hs hreading hfull rfl
  rw [step_noTransaction s hs, fsmStep_reading s false hreading]
  by_cases hmux : s.mux = 3
  · rw [fsmReading_of_last hmux, pushWord_full s _ hfull, lastWordBranch_eq, if_neg (not_not_intro hmux)]
    rfl
  · rw [fsmReading_of_mux_ne_last hmux, pushWord_full s _ hfull, if_pos hmux]
    rfl

/-- Settles O34: `tc - 1` is 0 exactly when `tc` is 1. -/
theorem waitCountsDown : Obligations.WaitCountsDown := by
  intro s hs hwait
  rw [step_noTransaction s hs, fsmStep_conversionWait s false hwait]
  refine ⟨fun hzero hpos => ?_, fun hone => by rw [fsmConversionWait_one hone]⟩
  rw [fsmConversionWait_zero hzero]
  by_cases htc : s.tc = 1
  · simp [htc]
  · have hne : s.tc - 1 ≠ 0 := by bv_omega
    rw [if_neg hne, if_neg htc]

/-- Settles O33: the halves of a word are the codes it is packed from. -/
theorem wordCarriesThePair : Obligations.WordCarriesThePair :=
  ⟨fun _ => ⟨rfl, rfl, rfl, rfl, rfl, rfl, rfl, rfl⟩, fun _ _ =>
    ⟨BitVec.extractLsb'_append_eq_left, BitVec.extractLsb'_append_eq_right, BitVec.extractLsb'_append_eq_right,
      BitVec.extractLsb'_append_eq_left, rfl, rfl⟩⟩

/-- R144 inverts R44: a word comes apart into the two codes it was packed from. -/
theorem unpackPair_packPair (order : PairOrder) (even odd : Code) :
    unpackPair order (packPair order even odd) = [even, odd] := by
  cases order
  · rw [unpackPair, packPair, BitVec.extractLsb'_append_eq_left, BitVec.extractLsb'_append_eq_right]
  · rw [unpackPair, packPair, BitVec.extractLsb'_append_eq_left, BitVec.extractLsb'_append_eq_right]

/-- Settles O59: each word comes apart into its pair, and the pairs are the channels in order. -/
theorem decodeInvertsTheMultiplexer : Obligations.DecodeInvertsTheMultiplexer := by
  intro order bank
  simp only [hostDecode, bankWords, muxWord, List.flatMap_cons, List.flatMap_nil, unpackPair_packPair]
  rfl

end Sys2Proof.Machine
end

section
/-! Several cycles of a block that is left alone: a wait, the four words of a sample, and a whole burst
(spec/41_fsm.md sections 5, 6 and 8). -/

namespace Sys2Proof.Machine

/-- `t` is what `s`, left alone, is after `k` cycles: what no FSM step touches is as it was, and `k` cycles of the
environment are over. -/
structure RunsTo (k : Nat) (s t : State) : Prop where
  run : runSteps k s = .next t
  leftAlone : t.leftAlone
  env : t.env = s.env.drop k
  cycle : t.cycle = s.cycle + k
  conversionTimeout : t.conversionTimeout = s.conversionTimeout
  sampleCount : t.sampleCount = s.sampleCount
  refused : t.refused = s.refused
  config : t.config = s.config

/-- The sample being taken, the FIFO and the faults are the same. -/
structure SameSample (s t : State) : Prop where
  sc : t.sc = s.sc
  mux : t.mux = s.mux
  bank : t.bank = s.bank
  fifo : t.fifo = s.fifo
  faults : t.faults = s.faults

theorem SameSample.refl (s : State) : SameSample s s := ⟨rfl, rfl, rfl, rfl, rfl⟩

section

variable {s t u : State}

theorem SameSample.trans (h : SameSample s t) (h' : SameSample t u) : SameSample s u :=
  ⟨h'.sc.trans h.sc, h'.mux.trans h.mux, h'.bank.trans h.bank, h'.fifo.trans h.fifo, h'.faults.trans h.faults⟩

theorem RunsTo.refl (h : s.leftAlone) : RunsTo 0 s s := ⟨rfl, h, rfl, rfl, rfl, rfl, rfl, rfl⟩

theorem RunsTo.trans {j k : Nat} (h : RunsTo j s t) (h' : RunsTo k t u) : RunsTo (j + k) s u where
  run := (runSteps_add j k h.run).trans h'.run
  leftAlone := h'.leftAlone
  env := by rw [h'.env, h.env, List.drop_drop]
  cycle := by rw [h'.cycle, h.cycle, Nat.add_assoc]
  conversionTimeout := h'.conversionTimeout.trans h.conversionTimeout
  sampleCount := h'.sampleCount.trans h.sampleCount
  refused := h'.refused.trans h.refused
  config := h'.config.trans h.config

/-- One cycle: the FSM's step and the end of the cycle. -/
theorem RunsTo.step (h : s.leftAlone) (hfsm : fsmStep false s = u) : RunsTo 1 s (endCycle u) := by
  subst hfsm
  obtain ⟨hstep, halone⟩ := h.step
  exact ⟨by rw [runSteps_succ 0 hstep, runSteps_zero], halone, by simp, by simp, by simp, by simp, by simp, by simp⟩

/-- D18: within the cycles of the wait `tc` has counted down by one for each that has passed. -/
theorem wait_runsTo (halone : s.leftAlone) (hwait : s.state = .conversionWait) (k : Nat)
    (hk : k < s.tc.toNat + s.config.waitOffset.cycles) :
    ∃ t, RunsTo k s t ∧ SameSample s t ∧ t.state = .conversionWait ∧ t.tc.toNat = s.tc.toNat - k := by
  induction k with
  | zero => exact ⟨s, .refl halone, .refl s, hwait, rfl⟩
  | succ k ih =>
    obtain ⟨t, hrun, hsame, hstate, htc⟩ := ih (by omega)
    have hfsm : fsmStep false t = { t with tc := t.tc - 1 } := by
      rw [fsmStep_conversionWait t false hstate]
      cases hoffset : s.config.waitOffset with
      | zero =>
        rw [hoffset, WaitOffset.cycles] at hk
        rw [fsmConversionWait_zero (hrun.config ▸ hoffset), if_neg (by bv_omega)]
      | one =>
        rw [hoffset, WaitOffset.cycles] at hk
        rw [fsmConversionWait_one (hrun.config ▸ hoffset), if_neg (by bv_omega)]
    have hone : t.tc.toNat ≠ 0 := by
      cases hoffset : s.config.waitOffset <;> rw [hoffset, WaitOffset.cycles] at hk <;> omega
    refine ⟨_, hrun.trans (.step hrun.leftAlone hfsm), hsame.trans ⟨rfl, rfl, rfl, rfl, rfl⟩, hstate, ?_⟩
    simp only [endCycle_tc]
    bv_omega

/-- D18: the wait's last cycle leads to StartAcquire with `tc` at 0. -/
theorem wait_ends (halone : s.leftAlone) (hwait : s.state = .conversionWait)
    (hpos : s.config.waitOffset = .zero → 1 ≤ s.tc.toNat) :
    ∃ t, RunsTo (s.tc.toNat + s.config.waitOffset.cycles) s t ∧ SameSample s t ∧ t.state = .startAcquire ∧
      t.tc = 0 := by
  cases hoffset : s.config.waitOffset with
  | zero =>
    have hge := hpos hoffset
    obtain ⟨t, hrun, hsame, hstate, htc⟩ :=
      wait_runsTo halone hwait (s.tc.toNat - 1) (by rw [hoffset, WaitOffset.cycles]; omega)
    have hlast : t.tc - 1 = 0 := by bv_omega
    have hfsm : fsmStep false t = { t with tc := t.tc - 1, state := .startAcquire } := by
      rw [fsmStep_conversionWait t false hstate, fsmConversionWait_zero (hrun.config ▸ hoffset), if_pos hlast]
    have hall := hrun.trans (.step hrun.leftAlone hfsm)
    rw [show s.tc.toNat - 1 + 1 = s.tc.toNat by omega] at hall
    exact ⟨_, hall, hsame.trans ⟨rfl, rfl, rfl, rfl, rfl⟩, rfl, hlast⟩
  | one =>
    obtain ⟨t, hrun, hsame, hstate, htc⟩ :=
      wait_runsTo halone hwait s.tc.toNat (by rw [hoffset, WaitOffset.cycles]; omega)
    have hlast : t.tc = 0 := by bv_omega
    have hfsm : fsmStep false t = { t with state := .startAcquire } := by
      rw [fsmStep_conversionWait t false hstate, fsmConversionWait_one (hrun.config ▸ hoffset), if_pos hlast]
    exact ⟨_, hrun.trans (.step hrun.leftAlone hfsm), hsame.trans ⟨rfl, rfl, rfl, rfl, rfl⟩, rfl, hlast⟩

end

/-- Settles O35: the wait's cycles one by one, and its end. -/
theorem waitLastsTheTimeout : Obligations.WaitLastsTheTimeout := by
  rintro s n halone hwait rfl hpos
  refine ⟨fun k hk => ?_, ?_⟩
  · obtain ⟨t, hrun, -, hstate, htc⟩ := wait_runsTo halone hwait k hk
    exact ⟨t, hrun.run, hstate, htc⟩
  · obtain ⟨t, hrun, hsame, hstate, htc⟩ := wait_ends halone hwait hpos
    exact ⟨t, hrun.run, hstate, htc, hsame.fifo, hsame.sc, hsame.mux, hsame.bank, hrun.conversionTimeout,
      hrun.sampleCount, hsame.faults⟩

section

variable {s : State}

theorem bankWords_take_succ (order : PairOrder) (bank : Codes) {k : Nat} (hk : k < 4) :
    (bankWords order bank).take (k + 1) = (bankWords order bank).take k ++ [muxWord order bank (BitVec.ofNat 2 k)] := by
  interval_cases k <;> rfl

/-- R108: the branch depends on `sc`, `N` and `T`. -/
theorem lastWordBranch_congr {t : State} (hsc : t.sc = s.sc) (hcount : t.sampleCount = s.sampleCount)
    (hT : t.conversionTimeout = s.conversionTimeout) (htc : t.tc = s.tc) :
    (lastWordBranch t).state = (lastWordBranch s).state ∧ (lastWordBranch t).sc = (lastWordBranch s).sc ∧
      (lastWordBranch t).tc = (lastWordBranch s).tc := by
  rw [lastWordBranch_eq, lastWordBranch_eq, hsc, hcount, hT]
  split
  · exact ⟨rfl, rfl, htc⟩
  · split
    · exact ⟨rfl, rfl, htc⟩
    · exact ⟨rfl, rfl, rfl⟩

/-- R109: the Reading cycles before the last push the words of the bank one by one. -/
theorem reading_runsTo (halone : s.leftAlone) (hreading : s.state = .reading) (hmux : s.mux = 0)
    (hroom : s.fifo.length + 4 ≤ s.config.fifoDepth) (k : Nat) (hk : k < 4) :
    ∃ t, RunsTo k s t ∧ t.state = .reading ∧ t.mux = BitVec.ofNat 2 k ∧
      t.fifo = s.fifo ++ (bankWords s.config.pairOrder s.bank).take k ∧ t.bank = s.bank ∧ t.faults = s.faults ∧
      t.sc = s.sc ∧ t.tc = s.tc := by
  induction k with
  | zero => exact ⟨s, .refl halone, hreading, hmux, by simp, rfl, rfl, rfl, rfl⟩
  | succ k ih =>
    obtain ⟨t, hrun, hstate, hmux', hfifo, hbank, hfaults, hsc, htc⟩ := ih (by omega)
    have hlast : t.mux ≠ 3 := by rw [hmux']; bv_omega
    have hfree : t.fifo.length < t.config.fifoDepth := by
      rw [hfifo, hrun.config, List.length_append, List.length_take]
      omega
    have hfsm : fsmStep false t =
        { t with fifo := t.fifo ++ [muxWord t.config.pairOrder t.bank t.mux], mux := t.mux + 1 } := by
      rw [fsmStep_reading t false hstate, fsmReading_of_mux_ne_last hlast, pushWord_room t _ hfree, advanceMux]
    refine ⟨_, hrun.trans (.step hrun.leftAlone hfsm), hstate, ?_, ?_, hbank, hfaults, hsc, htc⟩
    · rw [endCycle_mux, hmux', BitVec.ofNat_add]
      rfl
    · rw [endCycle_fifo, hfifo, hrun.config, hbank, hmux', bankWords_take_succ _ _ (by omega), List.append_assoc]

/-- R107, R108: four Reading cycles push the four words of the bank and branch. -/
theorem reading_ends (halone : s.leftAlone) (hreading : s.state = .reading) (hmux : s.mux = 0)
    (hroom : s.fifo.length + 4 ≤ s.config.fifoDepth) :
    ∃ t, RunsTo 4 s t ∧ t.fifo = s.fifo ++ bankWords s.config.pairOrder s.bank ∧ t.faults = s.faults ∧ t.mux = 0 ∧
      t.state = (lastWordBranch s).state ∧ t.sc = (lastWordBranch s).sc ∧ t.tc = (lastWordBranch s).tc := by
  obtain ⟨t, hrun, hstate, hmux', hfifo, hbank, hfaults, hsc, htc⟩ :=
    reading_runsTo halone hreading hmux hroom 3 (by omega)
  have hfree : t.fifo.length < t.config.fifoDepth := by
    rw [hfifo, hrun.config, List.length_append, List.length_take]
    omega
  have hfsm : fsmStep false t = lastWordBranch (advanceMux (pushWord (muxWord t.config.pairOrder t.bank t.mux) t)) := by
    rw [fsmStep_reading t false hstate, fsmReading_of_last hmux']
  rw [pushWord_room t _ hfree] at hfsm
  refine ⟨_, hrun.trans (.step hrun.leftAlone hfsm), ?_, ?_, ?_, ?_⟩
  · rw [endCycle_fifo, lastWordBranch_fifo, advanceMux_fifo, hfifo, hrun.config, hbank, hmux', List.append_assoc]
    rfl
  · rw [endCycle_faults, lastWordBranch_faults, advanceMux_faults, hfaults]
  · rw [endCycle_mux, lastWordBranch_mux, advanceMux_mux, hmux']
    rfl
  · exact lastWordBranch_congr hsc hrun.sampleCount hrun.conversionTimeout htc

end

/-- Settles O36: the branch of the last word, written out. -/
theorem readingPushesFourWords : Obligations.ReadingPushesFourWords := by
  intro s halone hreading hmux hroom _
  obtain ⟨t, hrun, hfifo, hfaults, hmux', hstate, -, -⟩ := reading_ends halone hreading hmux hroom
  refine ⟨t, hrun.run, hfifo, hfaults, hmux', hstate.trans ?_⟩
  rw [lastWordBranch_eq]
  split
  · rfl
  · split <;> rfl

section

variable {s : State}

/-- R104, R105: a block that comes into Acquiring stays there until the ADC completes, and then reads the codes. -/
theorem acquiring_runsTo {codes : Codes} (a : Nat) : ∀ s : State, s.state = .acquiring → (endCycle s).leftAlone →
    (∀ k < a, (s.env.getD k EnvCycle.quiet).adc.map AdcPins.done = some false) →
    (s.env.getD a EnvCycle.quiet).adc = some ⟨true, codes⟩ →
      ∃ t, RunsTo (a + 1) (endCycle s) t ∧ t.state = .reading ∧ t.mux = 0 ∧ t.bank = codes ∧ t.fifo = s.fifo ∧
        t.faults = s.faults ∧ t.sc = s.sc ∧ t.tc = s.tc := by
  induction a with
  | zero =>
    intro s hacquiring halone _ hdone
    have hports : (endCycle s).ports.adcDone = true ∧ (endCycle s).ports.adcCode = codes := by
      rw [endCycle_ports, nextEnv_eq_getD, EnvCycle.toPorts, hdone]
      exact ⟨rfl, rfl⟩
    obtain ⟨hdone', hcode⟩ := hports
    have hfsm : fsmStep false (endCycle s) = { endCycle s with bank := codes, mux := 0, state := .reading } := by
      rw [fsmStep_acquiring (endCycle s) false hacquiring, fsmAcquiring, if_pos hdone', hcode]
    exact ⟨_, .step halone hfsm, rfl, rfl, rfl, rfl, rfl, rfl, rfl⟩
  | succ a ih =>
    intro s hacquiring halone hbusy hdone
    have hnotDone : (endCycle s).ports.adcDone = false := by
      rw [endCycle_ports, nextEnv_eq_getD, EnvCycle.toPorts, hbusy 0 (by omega)]
      rfl
    have hfsm : fsmStep false (endCycle s) = endCycle s := by
      rw [fsmStep_acquiring (endCycle s) false hacquiring, fsmAcquiring, if_neg (Bool.eq_false_iff.mp hnotDone)]
    have hfirst := RunsTo.step halone hfsm
    obtain ⟨t, hrun, hrest⟩ := ih (endCycle s) hacquiring hfirst.leftAlone
      (fun k hk => by rw [endCycle_env_getD]; exact hbusy (k + 1) (by omega)) (by rw [endCycle_env_getD]; exact hdone)
    have hall := hfirst.trans hrun
    rw [Nat.add_comm 1] at hall
    exact ⟨t, hall, hrest⟩

/-- One sample from its StartAcquire on: after `a + 6` cycles its four words are pushed and the branch is taken. -/
theorem sample_runsTo {a : Nat} {codes : Codes} (halone : s.leftAlone) (hstart : s.state = .startAcquire)
    (hroom : s.fifo.length + 4 ≤ s.config.fifoDepth)
    (hbusy : ∀ k < a, (s.env.getD k EnvCycle.quiet).adc.map AdcPins.done = some false)
    (hdone : (s.env.getD a EnvCycle.quiet).adc = some ⟨true, codes⟩) :
    ∃ t, RunsTo (a + 6) s t ∧ t.fifo = s.fifo ++ bankWords s.config.pairOrder codes ∧ t.faults = s.faults ∧
      t.state = (lastWordBranch s).state ∧ t.sc = (lastWordBranch s).sc ∧ t.tc = (lastWordBranch s).tc := by
  have hfirst := RunsTo.step halone (fsmStep_startAcquire s false hstart)
  obtain ⟨r, hacquire, hreading, hmux, hbank, hfifo, hfaults, hsc, htc⟩ :=
    acquiring_runsTo a { s with state := .acquiring } rfl hfirst.leftAlone hbusy hdone
  have hrun := hfirst.trans hacquire
  obtain ⟨t, hread, hfifo', hfaults', -, hstate', hsc', htc'⟩ :=
    reading_ends hrun.leftAlone hreading hmux (by rw [hfifo, hrun.config]; exact hroom)
  obtain ⟨hstate, hscBranch, htcBranch⟩ := lastWordBranch_congr (s := s) hsc hrun.sampleCount hrun.conversionTimeout htc
  have hall := hrun.trans hread
  rw [show 1 + (a + 1) + 4 = a + 6 by omega] at hall
  refine ⟨t, hall, ?_, hfaults'.trans hfaults, hstate'.trans hstate, hsc'.trans hscBranch, htc'.trans htcBranch⟩
  rw [hfifo', hfifo, hrun.config, hbank]

/-- R116: a sample that is not the last, with the wait after it: the next sample's StartAcquire. -/
theorem sample_runsTo_next {a : Nat} {codes : Codes} (halone : s.leftAlone) (hstart : s.state = .startAcquire)
    (hlast : s.sc.toNat ≠ s.sampleCount.toNat - 1) (hroom : s.fifo.length + 4 ≤ s.config.fifoDepth)
    (hbusy : ∀ k < a, (s.env.getD k EnvCycle.quiet).adc.map AdcPins.done = some false)
    (hdone : (s.env.getD a EnvCycle.quiet).adc = some ⟨true, codes⟩) :
    ∃ t, RunsTo (a + 6 + waitCycles s) s t ∧ t.state = .startAcquire ∧ t.sc = s.sc + 1 ∧
      t.fifo = s.fifo ++ bankWords s.config.pairOrder codes ∧ t.faults = s.faults := by
  obtain ⟨r, hrun, hfifo, hfaults, hstate, hsc, htc⟩ := sample_runsTo halone hstart hroom hbusy hdone
  rw [lastWordBranch_eq, if_neg hlast] at hstate hsc htc
  by_cases hT : s.conversionTimeout = 0
  · rw [if_pos hT] at hstate hsc
    rw [waitCycles, if_pos hT]
    exact ⟨r, hrun, hstate, hsc, hfifo, hfaults⟩
  · rw [if_neg hT] at hstate hsc htc
    replace htc : r.tc = s.conversionTimeout := htc
    obtain ⟨t, hwait, hsame, hstate', -⟩ := wait_ends hrun.leftAlone hstate (fun _ => by rw [htc]; bv_omega)
    rw [htc, hrun.config] at hwait
    rw [waitCycles, if_neg hT]
    exact ⟨t, hrun.trans hwait, hstate', hsame.sc.trans hsc, hsame.fifo.trans hfifo, hsame.faults.trans hfaults⟩

theorem burstCycles_single (wait : Nat) (d : Nat × Codes) : burstCycles wait [d] = d.1 + 6 := by
  simp [burstCycles]

theorem burstCycles_cons (wait : Nat) (d d' : Nat × Codes) (ds : List (Nat × Codes)) :
    burstCycles wait (d :: d' :: ds) = d.1 + 6 + wait + burstCycles wait (d' :: ds) := by
  simp only [burstCycles, List.map_cons, List.sum_cons, List.length_cons, Nat.add_sub_cancel, Nat.succ_mul]
  omega

/-- R113, R116: what remains of a burst, from the StartAcquire of any of its samples on. -/
theorem burst_runsTo (draws : List (Nat × Codes)) : ∀ s : State, s.leftAlone → s.state = .startAcquire →
    draws ≠ [] → s.sc.toNat + draws.length = s.sampleCount.toNat →
    s.fifo.length + 4 * draws.length ≤ s.config.fifoDepth → adcServes (waitCycles s) draws s.env →
      ∃ t, RunsTo (burstCycles (waitCycles s) draws) s t ∧ t.state = .idle ∧
        t.fifo = s.fifo ++ draws.flatMap (fun d => bankWords s.config.pairOrder d.2) ∧
        t.sc.toNat = s.sampleCount.toNat - 1 ∧ t.faults = s.faults := by
  induction draws with
  | nil => exact fun s _ _ hne => absurd rfl hne
  | cons d draws ih =>
    obtain ⟨a, codes⟩ := d
    intro s halone hstart _ hcount hroom hserves
    obtain ⟨hbusy, hdone, hrest⟩ := hserves
    rw [List.length_cons] at hcount hroom
    cases draws with
    | nil =>
      have hlast : s.sc.toNat = s.sampleCount.toNat - 1 := by simp at hcount; omega
      obtain ⟨t, hrun, hfifo, hfaults, hstate, hsc, -⟩ := sample_runsTo halone hstart (by omega) hbusy hdone
      rw [lastWordBranch_eq, if_pos hlast] at hstate hsc
      rw [burstCycles_single]
      exact ⟨t, hrun, hstate, by simpa using hfifo, hsc ▸ hlast, hfaults⟩
    | cons d' draws =>
      have hlast : s.sc.toNat ≠ s.sampleCount.toNat - 1 := by rw [List.length_cons] at hcount; omega
      obtain ⟨r, hrun, hstate, hsc, hfifo, hfaults⟩ :=
        sample_runsTo_next halone hstart hlast (by omega) hbusy hdone
      have hwait : waitCycles r = waitCycles s := by
        rw [waitCycles, waitCycles, hrun.conversionTimeout, hrun.config]
      have hcount' : r.sc.toNat + (d' :: draws).length = r.sampleCount.toNat := by
        rw [hsc, hrun.sampleCount]
        have := s.sampleCount.isLt
        bv_omega
      have hroom' : r.fifo.length + 4 * (d' :: draws).length ≤ r.config.fifoDepth := by
        rw [hfifo, hrun.config, List.length_append, show (bankWords _ codes).length = 4 from rfl]
        omega
      obtain ⟨t, hrun', hidle, hfifo', hsc', hfaults'⟩ := ih r hrun.leftAlone hstate (by simp) hcount' hroom'
        (by rw [hwait, hrun.env]; exact hrest)
      rw [hwait] at hrun'
      refine ⟨t, ?_, hidle, ?_, hrun.sampleCount ▸ hsc', hfaults'.trans hfaults⟩
      · rw [burstCycles_cons]
        exact hrun.trans hrun'
      · simp only [hfifo', hfifo, hrun.config, List.flatMap_cons, List.append_assoc]

end

/-- Settles O37: from the first sample on, all of the burst remains. -/
theorem burstPushesAllItsWords : Obligations.BurstPushesAllItsWords := by
  intro s draws halone hstart hsc hcount hmin _ hroom hserves
  obtain ⟨t, hrun, hidle, hfifo, hsc', hfaults⟩ := burst_runsTo draws s halone hstart
    (List.ne_nil_of_length_pos hmin) (by simp [hsc, hcount]) hroom hserves
  exact ⟨t, hrun.run, hidle, hfifo, hcount ▸ hsc', hfaults, hrun.refused, hrun.conversionTimeout, hrun.sampleCount,
    hrun.cycle⟩

end Sys2Proof.Machine
end

section
/-! The host's requests (spec/42_host_protocol.md R133-R139): what a valid one puts on the timeline, the start of its
burst, and a transfer. -/

namespace Sys2Proof.Machine

/-- `t` with the host's side, the writes of the present cycle and the environment of `s`. -/
def withTimelineOf (s t : State) : State :=
  { t with host := s.host, env := s.env, ports := { t.ports with writes := s.ports.writes } }

section

variable {s t u : State}

theorem onlyWritesAdded.trans (h : onlyWritesAdded s t) (h' : onlyWritesAdded t u) : onlyWritesAdded s u := by
  obtain ⟨hrest, henv⟩ := h
  obtain ⟨hrest', henv'⟩ := h'
  refine ⟨(congrArg (withTimelineOf s) hrest').trans hrest, fun k => ?_⟩
  rw [← henv k, ← henv' k]

theorem onlyWritesAdded.eq_withTimelineOf (h : onlyWritesAdded s t) : t = withTimelineOf t s :=
  congrArg (a₁ := withTimelineOf s t) (withTimelineOf t) h.1

theorem onlyWritesAdded.cycle (h : onlyWritesAdded s t) : t.cycle = s.cycle :=
  (congrArg State.cycle h.eq_withTimelineOf :)
theorem onlyWritesAdded.reads (h : onlyWritesAdded s t) : t.reads = s.reads :=
  (congrArg State.reads h.eq_withTimelineOf :)
theorem onlyWritesAdded.config (h : onlyWritesAdded s t) : t.config = s.config :=
  (congrArg State.config h.eq_withTimelineOf :)

theorem writesAt_present (s : State) : writesAt s.cycle s = s.ports.writes := by
  simp [writesAt]

theorem writesAt_coming (s : State) (k : Nat) :
    writesAt (s.cycle + 1 + k) s = (s.env.getD k EnvCycle.quiet).writes := by
  rw [writesAt, if_neg (by omega), if_neg (by omega), show s.cycle + 1 + k - s.cycle - 1 = k by omega]

/-- R134, R135: the timeout of a period below 525112 ns fits the payload. -/
theorem timeoutOfPeriod_le {periodNs : Nat} (h : periodNs < 525112) : timeoutOfPeriod periodNs ≤ 0xFFFF := by
  rw [timeoutOfPeriod_eq]
  omega

/-- A request in range whose timeout fits is issued. -/
theorem hostPrepare_valid {samples periodNs : Nat} (hmin : 1 ≤ samples) (hmax : samples ≤ 1024)
    (hperiod : 824 ≤ periodNs) (hfits : periodNs < 525112) (hreads : s.reads = 0) :
    hostPrepare samples periodNs s = issueRequest samples periodNs s := by
  have hrange : requestInRange samples periodNs = true :=
    (requestInRange_iff samples periodNs).mpr ⟨hmin, hmax, hperiod⟩
  rw [hostPrepare, unlessBlocked_free _ hreads, if_neg (by simp [hrange]), if_neg (timeoutOfPeriod_le hfits).not_gt]

end

/-- Settles O53: the second write is issued one period after the first, from the state the first leaves. -/
theorem prepareIssuesTwoWrites : Obligations.PrepareIssuesTwoWrites := by
  intro s samples periodNs hmin hmax hperiod hfits hnow hreads
  obtain ⟨s1, hok1, hhost1, hwrites1, honly1⟩ :=
    issueWrite_issues_one 0x01 (BitVec.ofNat 16 (timeoutOfPeriod periodNs)) hnow hreads
  have hnow1 : s1.cycle ≤ s1.host.now := by
    rw [hhost1, honly1.cycle]
    exact Nat.le_succ_of_le hnow
  obtain ⟨s2, hok2, hhost2, hwrites2, honly2⟩ :=
    issueWrite_issues_one 0x02 (BitVec.ofNat 16 samples) hnow1 (honly1.reads.trans hreads)
  have hok : issueRequest samples periodNs s = .ok { s2 with host := { s2.host with pendingSamples := samples } } := by
    simp only [issueRequest, hok1, bind, Except.bind, hok2]
    rfl
  refine ⟨_, (hostPrepare_valid hmin hmax hperiod hfits hreads).trans hok, by rw [hhost2, hhost1], fun c => ?_,
    honly1.trans honly2⟩
  refine (hwrites2 c).trans ?_
  rw [hwrites1, honly1.config, hhost1, List.append_assoc]
  by_cases hc : c = s.host.now
  · simp [hc]
  · simp [hc]

/-- Settles O55: `prepare`'s two writes, and the trigger one period after them. -/
theorem sampleIssuesThreeWrites : Obligations.SampleIssuesThreeWrites := by
  intro s samples periodNs hmin hmax hperiod hfits hnow hreads
  obtain ⟨s1, hok1, hhost1, hwrites1, honly1⟩ :=
    prepareIssuesTwoWrites s samples periodNs hmin hmax hperiod hfits hnow hreads
  have hnow1 : s1.cycle ≤ s1.host.now := by
    rw [hhost1, honly1.cycle]
    exact Nat.le_add_right_of_le hnow
  obtain ⟨s2, hok2, hhost2, hwrites2, honly2⟩ := triggerIssuesOneWrite s1 hnow1 (honly1.reads.trans hreads)
  have hok : hostSample samples periodNs s = .ok s2 := by
    simp only [hostSample, hok1]
    exact hok2
  refine ⟨s2, hok, by rw [hhost2, hhost1], fun c => ?_, honly1.trans honly2⟩
  rw [hwrites2, hwrites1, honly1.config, hhost1, List.append_assoc]
  by_cases hc : c = s.host.now
  · simp [hc]
  by_cases hc1 : c = s.host.now + 1
  · simp [hc1]
  · simp [hc, hc1]

/-- Settles O52: 525112 ns are the first period whose timeout is 65536. -/
theorem oversizeTimeoutIsTurnedDown : Obligations.OversizeTimeoutIsTurnedDown := by
  intro s samples periodNs hreads hmin hmax
  refine ⟨fun hlarge => ?_, fun hperiod hfits hnow => ?_⟩
  · have hrange : requestInRange samples periodNs = true :=
      (requestInRange_iff samples periodNs).mpr ⟨hmin, hmax, by rw [minPeriodNs]; omega⟩
    have htimeout : 0xFFFF < timeoutOfPeriod periodNs := by
      rw [timeoutOfPeriod_eq]
      omega
    rw [hostPrepare, unlessBlocked_free _ hreads, if_neg (by simp [hrange]), if_pos htimeout]
  · obtain ⟨t, hok, -⟩ := prepareIssuesTwoWrites s samples periodNs hmin hmax hperiod hfits hnow hreads
    exact ⟨t, hok⟩

/-- Settles O60: every move goes through `unlessBlocked`. -/
theorem blockedHostHasNoMove : Obligations.BlockedHostHasNoMove := by
  refine ⟨fun s samples periodNs cycles hblocked => ?_, fun s cycles hfree =>
    ⟨unlessBlocked_free _ hfree, unlessBlocked_free _ hfree⟩⟩
  have hprepare : hostPrepare samples periodNs s = .error .blockedOnRead := unlessBlocked_blocked _ hblocked
  exact ⟨hprepare, unlessBlocked_blocked _ hblocked, hostSample_error hprepare, unlessBlocked_blocked _ hblocked,
    unlessBlocked_blocked _ hblocked, unlessBlocked_blocked _ hblocked⟩

section

variable {s : State}

/-- A step of a host that has an answerable read answers it. -/
theorem step_answers_read {w : Word} {rest : List Word} (hreads : s.reads ≠ 0) (hfifo : s.fifo = w :: rest) :
    step s = .next (popWord w rest (takeRead s)) := by
  obtain ⟨hrun, -, -⟩ := stepRunsTheHostsRead s
  rw [hrun hreads (by simp [hfifo]), readReturnsTheOldestWord (takeRead s) w rest hfifo]
  rfl

/-- R139: `k` reads answered one after another from a FIFO that holds the words; when a transfer's last word is among
them, the pending sample count is cleared. -/
theorem runSteps_reads (k : Nat) : ∀ s : State, k ≤ s.reads → k ≤ s.fifo.length →
    runSteps k s = .next { s with
      reads := s.reads - k
      fifo := s.fifo.drop k
      host :=
        { now := s.host.now
          pendingSamples := if 0 < s.host.transferLeft ∧ s.host.transferLeft ≤ k then 0 else s.host.pendingSamples
          transferLeft := s.host.transferLeft - k
          buffer := s.host.buffer ++ s.fifo.take k } } := by
  induction k with
  | zero =>
    intro s _ _
    have hnone : ¬ (0 < s.host.transferLeft ∧ s.host.transferLeft ≤ 0) := by omega
    rw [if_neg hnone]
    simp
  | succ k ih =>
    intro s hreads hlength
    obtain ⟨w, rest, hfifo⟩ := List.exists_cons_of_length_pos (Nat.zero_lt_of_lt hlength)
    rw [hfifo, List.length_cons] at hlength
    have hpending : (if 0 < s.host.transferLeft - 1 ∧ s.host.transferLeft - 1 ≤ k then 0
          else if s.host.transferLeft = 1 then 0 else s.host.pendingSamples) =
        if 0 < s.host.transferLeft ∧ s.host.transferLeft ≤ k + 1 then 0 else s.host.pendingSamples := by
      split_ifs <;> omega
    rw [runSteps_succ k (step_answers_read (by omega) hfifo), ih _ (by rw [popWord_reads, takeRead_reads]; omega)
      (by rw [popWord_fifo]; omega), popWord_host, receive_transferLeft, receive_pendingSamples, takeRead_host,
      hpending]
    simp [hfifo, popWord, takeRead, Nat.sub_sub, Nat.add_comm 1]

end

/-- Settles O57: the transfer's reads are all there are, and its last word clears the count. -/
theorem transferReadsFourWordsPerSample : Obligations.TransferReadsFourWordsPerSample := by
  rintro s issued hreads rfl
  refine ⟨unlessBlocked_free _ hreads, fun hlength => ?_⟩
  rw [runSteps_reads]
  · simp [hreads]
  · exact le_refl _
  · exact hlength

end Sys2Proof.Machine
end

section
/-! From `sample` to StartAcquire (spec/70_reset_and_hazards.md section 4): the three writes land one after another on a
block that is otherwise left alone. -/

namespace Sys2Proof.Machine

/-- Apart from its writes the cycle leaves the block alone. -/
def EnvCycle.OnlyWrites (e : EnvCycle) : Prop :=
  e.rst = false ∧ e.secondHost = false ∧ e.reads = 0

/-- The present cycle holds one write to a register of the block and nothing else, and the coming ones nothing but
writes. -/
structure LoneWrite (s : State) (id : RegisterId) (data : Payload) : Prop where
  writes : s.ports.writes = [⟨busAddress s.config.deviceChannel id, data⟩]
  rst : s.ports.rst = false
  secondHost : s.ports.secondHost = false
  reads : s.reads = 0
  addrMap : s.config.addrMap = AddrMap.interfaceListing
  coming : ∀ k, (s.env.getD k EnvCycle.quiet).OnlyWrites

section

variable {s t : State} {id : RegisterId} {data : Payload}

/-- The lone write is what the step runs, and no other write lands with it. -/
theorem LoneWrite.step (h : LoneWrite s id data) :
    step s = exec (decodeWrite AddrMap.interfaceListing id data) (withWrites [] s) ∧
      (withWrites [] s).ports.rst = false ∧ anotherWriteLands (withWrites [] s) = false := by
  refine ⟨?_, h.rst, by simp [anotherWriteLands, withWrites, h.secondHost]⟩
  refine stepRunsTheLandedWrite s [] [] _ _ (by simp [readReady, h.reads]) h.writes (by simp) ?_
  rw [← h.addrMap]
  exact decodeBus_own s.config id data

theorem LoneWrite.step_timeout (h : LoneWrite s 0x01 data) (hidle : s.state = .idle) :
    Machine.step s = .next (endCycle (storeTimeout data s)) := by
  obtain ⟨hstep, hrst, halone⟩ := h.step
  exact hstep.trans (timeoutWriteStoresThePayload (withWrites [] s) data hrst halone hidle)

theorem LoneWrite.step_count (h : LoneWrite s 0x02 data) (hidle : s.state = .idle) :
    Machine.step s = .next (endCycle (storeCount data s)) := by
  obtain ⟨hstep, hrst, halone⟩ := h.step
  exact hstep.trans (countWriteStoresThePayload (withWrites [] s) data hrst halone hidle)

theorem LoneWrite.step_trigger (h : LoneWrite s 0x00 0x0001) (hidle : s.state = .idle) (hwrT : s.wrT = true)
    (hwrN : s.wrN = true) (hmin : 1 ≤ s.sampleCount.toNat) (hmax : s.sampleCount.toNat ≤ 1024) :
    Machine.step s = .next (endCycle { s with sc := 0, state := .startAcquire }) := by
  obtain ⟨hstep, hrst, halone⟩ := h.step
  obtain ⟨-, hexec⟩ :=
    admittedTriggerStartsTheBurst (withWrites [] s) hrst halone hidle hwrT hwrN hmin hmax
  exact hstep.trans hexec

/-- After a cycle the next listed write is the lone one. -/
theorem LoneWrite.endCycle {id' : RegisterId} {data' : Payload} (h : LoneWrite s id data) (henv : t.env = s.env)
    (hreads : t.reads = s.reads) (hconfig : t.config = s.config)
    (hnext : (s.env.getD 0 EnvCycle.quiet).writes = [⟨busAddress s.config.deviceChannel id', data'⟩]) :
    LoneWrite (endCycle t) id' data' := by
  obtain ⟨hrst, hsecond, hnextReads⟩ := h.coming 0
  rw [← henv] at hnext hrst hsecond hnextReads
  refine ⟨?_, ?_, ?_, ?_, ?_, fun k => ?_⟩
  · rw [endCycle_ports, nextEnv_eq_getD, endCycle_config, hconfig]
    exact hnext
  · rw [endCycle_ports, nextEnv_eq_getD]
    exact hrst
  · rw [endCycle_ports, nextEnv_eq_getD]
    exact hsecond
  · rw [endCycle_reads, nextEnv_eq_getD, hreads, h.reads, hnextReads]
  · rw [endCycle_config, hconfig, h.addrMap]
  · rw [endCycle_env_getD, henv]
    exact h.coming (k + 1)

/-- After a lone write's cycle, when no more writes are coming, the block is left alone. -/
theorem LoneWrite.leftAlone_endCycle (h : LoneWrite s id data) (henv : t.env = s.env) (hreads : t.reads = s.reads)
    (hquiet : ∀ k, (s.env.getD k EnvCycle.quiet).writes = []) : (Machine.endCycle t).leftAlone := by
  have hcoming : ∀ k, (s.env.getD k EnvCycle.quiet).untouched := by
    intro k
    obtain ⟨hrst, hsecond, hnone⟩ := h.coming k
    exact ⟨hrst, hquiet k, hsecond, hnone⟩
  obtain ⟨hrst, hwrites, hsecond, hnone⟩ := hcoming 0
  refine ⟨⟨?_, ?_, ?_, ?_⟩, fun e he => ?_⟩
  · rw [endCycle_ports, nextEnv_eq_getD, henv]
    exact hrst
  · rw [endCycle_ports, nextEnv_eq_getD, henv]
    exact hwrites
  · rw [endCycle_ports, nextEnv_eq_getD, henv]
    exact hsecond
  · rw [endCycle_reads, nextEnv_eq_getD, henv, hreads, h.reads, hnone]
  · rw [endCycle_env, henv] at he
    obtain ⟨k, hk⟩ := List.mem_iff_getElem?.mp (List.mem_of_mem_tail he)
    have := hcoming k
    rwa [List.getD_eq_getElem?_getD, hk] at this

/-- A request's three writes, landing in the present cycle and the next two, start its burst: R82, R83 and R81 one after
another. -/
theorem three_writes_start_burst {timeout samples : Payload} (hidle : s.state = .idle) (h : LoneWrite s 0x01 timeout)
    (hcount : (s.env.getD 0 EnvCycle.quiet).writes = [⟨busAddress s.config.deviceChannel 0x02, samples⟩])
    (htrigger : (s.env.getD 1 EnvCycle.quiet).writes = [⟨busAddress s.config.deviceChannel 0x00, 0x0001⟩])
    (hquiet : ∀ k, (s.env.getD (k + 2) EnvCycle.quiet).writes = []) (hmin : 1 ≤ samples.toNat)
    (hmax : samples.toNat ≤ 1024) :
    ∃ t, runSteps 3 s = .next t ∧ t.state = .startAcquire ∧ t.sc = 0 ∧ t.conversionTimeout = timeout ∧
      t.sampleCount = samples ∧ t.wrT = true ∧ t.wrN = true ∧ t.fifo = s.fifo ∧ t.refused = s.refused ∧
      t.faults = s.faults ∧ t.cycle = s.cycle + 3 ∧ t.leftAlone := by
  have hstep1 := h.step_timeout hidle
  have h1 : LoneWrite (endCycle (storeTimeout timeout s)) 0x02 samples := h.endCycle rfl rfl rfl hcount
  have hstep2 := h1.step_count hidle
  have h2 : LoneWrite (endCycle (storeCount samples (endCycle (storeTimeout timeout s)))) 0x00 0x0001 :=
    h1.endCycle rfl rfl rfl ((endCycle_env_getD (storeTimeout timeout s) 0 ▸ htrigger :))
  have hstep3 := h2.step_trigger hidle rfl rfl hmin hmax
  have hrun := (runSteps_succ 2 hstep1).trans ((runSteps_succ 1 hstep2).trans (runSteps_succ 0 hstep3))
  refine ⟨_, hrun, rfl, rfl, rfl, rfl, rfl, rfl, rfl, rfl, rfl, rfl, h2.leftAlone_endCycle rfl rfl fun k => ?_⟩
  rw [endCycle_env_getD, storeCount_env, endCycle_env_getD]
  exact hquiet k

/-- R138: a host whose clock is at the present cycle of a block that is left alone issues `sample`'s writes into this
cycle and the next two, and nothing else is on the bus. -/
theorem hostSample_at_present {samples periodNs : Nat} (hmin : 1 ≤ samples) (hmax : samples ≤ 1024)
    (hperiod : 824 ≤ periodNs) (hfits : periodNs < 525112) (halone : s.leftAlone) (hnow : s.host.now = s.cycle)
    (hmap : s.config.addrMap = AddrMap.interfaceListing) :
    ∃ issued, hostSample samples periodNs s = .ok issued ∧ issued = withTimelineOf issued s ∧
      LoneWrite issued 0x01 (BitVec.ofNat 16 (timeoutOfPeriod periodNs)) ∧
      ∀ k, (issued.env.getD k EnvCycle.quiet).writes =
        if k = 0 then [⟨busAddress issued.config.deviceChannel 0x02, BitVec.ofNat 16 samples⟩]
        else if k = 1 then [⟨busAddress issued.config.deviceChannel 0x00, 0x0001⟩] else [] := by
  obtain ⟨⟨hrst, hwrites, hsecond, hreads⟩, hcoming⟩ := halone
  obtain ⟨issued, hsample, -, hissued, honly⟩ :=
    sampleIssuesThreeWrites s samples periodNs hmin hmax hperiod hfits hnow.ge hreads
  have heq := honly.eq_withTimelineOf
  have hquiet : ∀ k, (s.env.getD k EnvCycle.quiet).untouched := forall_getD_env hcoming EnvCycle.untouched_quiet
  refine ⟨issued, hsample, heq, ⟨?_, ?_, ?_, honly.reads.trans hreads, ?_, fun k => ?_⟩, fun k => ?_⟩
  · rw [← writesAt_present issued, hissued, honly.cycle, honly.config, writesAt_present, hwrites, hnow, if_pos rfl,
      List.nil_append]
  · rw [heq]
    exact hrst
  · rw [heq]
    exact hsecond
  · rw [honly.config, hmap]
  · obtain ⟨hrst', -, hsecond', hreads'⟩ := hquiet k
    have hsame := honly.2 k
    rw [← hsame] at hrst' hsecond' hreads'
    exact ⟨hrst', hsecond', hreads'⟩
  · obtain ⟨-, hwrites', -, -⟩ := hquiet k
    have hfirst : s.cycle + 1 + k ≠ s.cycle := by omega
    have hsecond : s.cycle + 1 + k = s.cycle + 1 ↔ k = 0 := by omega
    have hthird : s.cycle + 1 + k = s.cycle + 2 ↔ k = 1 := by omega
    rw [← writesAt_coming issued, hissued, honly.cycle, honly.config, writesAt_coming, hwrites', List.nil_append, hnow,
      if_neg hfirst]
    simp only [hsecond, hthird]

end

/-- Settles O56: the wait brings the host's clock to the present cycle, and then the three writes start the burst. -/
theorem sampleStartsTheBurstInThreeCycles : Obligations.SampleStartsTheBurstInThreeCycles := by
  intro s samples periodNs hmin hmax hperiod hfits hidle halone hnow hmap
  have hwait : hostWait (s.cycle - s.host.now) s = .ok { s with host := { s.host with now := s.cycle } } := by
    obtain ⟨⟨-, -, -, hreads⟩, -⟩ := halone
    rw [hostWait, unlessBlocked_free _ hreads, Nat.add_sub_cancel' hnow]
  obtain ⟨issued, hsample, heq, hlone, hlisted⟩ := hostSample_at_present
    (s := { s with host := { s.host with now := s.cycle } }) hmin hmax hperiod hfits halone rfl hmap
  have hcount : (BitVec.ofNat 16 samples).toNat = samples := by
    rw [BitVec.toNat_ofNat]
    omega
  have htimeout : (BitVec.ofNat 16 (timeoutOfPeriod periodNs)).toNat = timeoutOfPeriod periodNs := by
    have := timeoutOfPeriod_le hfits
    rw [BitVec.toNat_ofNat]
    omega
  obtain ⟨t, hrun, hstate, hsc, hT, hN, hwrT, hwrN, hfifo, hrefused, hfaults, hcycle, halone'⟩ :=
    three_writes_start_burst (heq ▸ hidle) hlone (hlisted 0) (hlisted 1) (fun k => hlisted (k + 2)) (by omega)
      (by omega)
  rw [heq] at hfifo hrefused hfaults hcycle
  exact ⟨_, issued, t, hwait, hsample, hrun, hstate, hsc, by rw [hT, htimeout], by rw [hN, hcount], hwrT, hwrN, hfifo,
    hrefused, hfaults, hcycle, halone'⟩

end Sys2Proof.Machine
end
